-- ==== Sys2Proof/Word.lean ====
section
/-! DEFINITION. The word types every other file uses (R30, R31).

A register value, an address while it is computed and a CSR value are `Word`s, 64 bits wide. With XLEN = 64 a word is
the value. With XLEN = 32 the low 32 bits are the value and the high 32 are 0 (log 1). -/

namespace Sys2Proof

/-- An XLEN-wide value, zero-extended to 64 bits when XLEN = 32 (R31; DESIGN CHOICE, safe: log 1). -/
abbrev Word := BitVec 64

/-- The smallest addressable unit (R200). -/
abbrev Byte := BitVec 8

/-- A 5-bit register field, naming x0..x31 (R101, R305). -/
abbrev RegIdx := BitVec 5

/-- A 3-bit register field of the compressed formats, naming x8..x15 (R321). -/
abbrev CRegIdx := BitVec 3

/-- The integer register width, "32 or 64 bits" (R2, R20). -/
inductive Xlen where
  | rv32
  | rv64
deriving DecidableEq, Repr

end Sys2Proof
end

