-- ==== Sys2Proof/Syntax.lean ====
section
/-! DEFINITION. The syntax of instructions: one constructor for each mnemonic of spec/opcode_table.json. Operands are the
decoded fields of the row (R305, R321); the fields a row leaves free are operands too, so that a term determines its word. -/

namespace Sys2Proof

/-- The instructions of the two dispatch tables (R3). -/
inductive Instr where
  -- Integer computational instructions (40_integer.md)
  /-- LUI, imm = inst[31:12] (R400). -/
  | lui (rd : RegIdx) (imm : BitVec 20)
  /-- AUIPC (R401). -/
  | auipc (rd : RegIdx) (imm : BitVec 20)
  /-- ADDI (R402). -/
  | addi (rd rs1 : RegIdx) (imm : BitVec 12)
  /-- SLTI (R403). -/
  | slti (rd rs1 : RegIdx) (imm : BitVec 12)
  /-- SLTIU (R404). -/
  | sltiu (rd rs1 : RegIdx) (imm : BitVec 12)
  /-- XORI (R405). -/
  | xori (rd rs1 : RegIdx) (imm : BitVec 12)
  /-- ORI (R406). -/
  | ori (rd rs1 : RegIdx) (imm : BitVec 12)
  /-- ANDI (R407). -/
  | andi (rd rs1 : RegIdx) (imm : BitVec 12)
  /-- SLLI (R408); with XLEN = 32 shamt[5] is 0. -/
  | slli (rd rs1 : RegIdx) (shamt : BitVec 6)
  /-- SRLI (R409); with XLEN = 32 shamt[5] is 0. -/
  | srli (rd rs1 : RegIdx) (shamt : BitVec 6)
  /-- SRAI (R410); with XLEN = 32 shamt[5] is 0. -/
  | srai (rd rs1 : RegIdx) (shamt : BitVec 6)
  /-- ADD (R411). -/
  | add (rd rs1 rs2 : RegIdx)
  /-- SUB (R412). -/
  | sub (rd rs1 rs2 : RegIdx)
  /-- SLL (R413). -/
  | sll (rd rs1 rs2 : RegIdx)
  /-- SLT (R414). -/
  | slt (rd rs1 rs2 : RegIdx)
  /-- SLTU (R415). -/
  | sltu (rd rs1 rs2 : RegIdx)
  /-- XOR (R416). -/
  | xor (rd rs1 rs2 : RegIdx)
  /-- SRL (R417). -/
  | srl (rd rs1 rs2 : RegIdx)
  /-- SRA (R418). -/
  | sra (rd rs1 rs2 : RegIdx)
  /-- OR (R419). -/
  | or (rd rs1 rs2 : RegIdx)
  /-- AND (R420). -/
  | and (rd rs1 rs2 : RegIdx)
  /-- ADDIW, XLEN = 64 (R421). -/
  | addiw (rd rs1 : RegIdx) (imm : BitVec 12)
  /-- SLLIW, XLEN = 64 (R422). -/
  | slliw (rd rs1 : RegIdx) (shamt : BitVec 5)
  /-- SRLIW, XLEN = 64 (R423). -/
  | srliw (rd rs1 : RegIdx) (shamt : BitVec 5)
  /-- SRAIW, XLEN = 64 (R424). -/
  | sraiw (rd rs1 : RegIdx) (shamt : BitVec 5)
  /-- ADDW, XLEN = 64 (R425). -/
  | addw (rd rs1 rs2 : RegIdx)
  /-- SUBW, XLEN = 64 (R426). -/
  | subw (rd rs1 rs2 : RegIdx)
  /-- SLLW, XLEN = 64 (R427). -/
  | sllw (rd rs1 rs2 : RegIdx)
  /-- SRLW, XLEN = 64 (R428). -/
  | srlw (rd rs1 rs2 : RegIdx)
  /-- SRAW, XLEN = 64 (R429). -/
  | sraw (rd rs1 rs2 : RegIdx)
  -- Control transfer (41_control.md)
  /-- JAL, offset = immJ[20:1] (R451). -/
  | jal (rd : RegIdx) (offset : BitVec 20)
  /-- JALR (R452). -/
  | jalr (rd rs1 : RegIdx) (imm : BitVec 12)
  /-- BEQ, offset = immB[12:1] (R453). -/
  | beq (rs1 rs2 : RegIdx) (offset : BitVec 12)
  /-- BNE, offset = immB[12:1] (R454). -/
  | bne (rs1 rs2 : RegIdx) (offset : BitVec 12)
  /-- BLT, offset = immB[12:1] (R455). -/
  | blt (rs1 rs2 : RegIdx) (offset : BitVec 12)
  /-- BGE, offset = immB[12:1] (R456). -/
  | bge (rs1 rs2 : RegIdx) (offset : BitVec 12)
  /-- BLTU, offset = immB[12:1] (R457). -/
  | bltu (rs1 rs2 : RegIdx) (offset : BitVec 12)
  /-- BGEU, offset = immB[12:1] (R458). -/
  | bgeu (rs1 rs2 : RegIdx) (offset : BitVec 12)
  -- Loads, stores and fences (42_loadstore.md)
  /-- LB (R501). -/
  | lb (rd rs1 : RegIdx) (imm : BitVec 12)
  /-- LH (R502). -/
  | lh (rd rs1 : RegIdx) (imm : BitVec 12)
  /-- LW (R503). -/
  | lw (rd rs1 : RegIdx) (imm : BitVec 12)
  /-- LD, XLEN = 64 (R504). -/
  | ld (rd rs1 : RegIdx) (imm : BitVec 12)
  /-- LBU (R505). -/
  | lbu (rd rs1 : RegIdx) (imm : BitVec 12)
  /-- LHU (R506). -/
  | lhu (rd rs1 : RegIdx) (imm : BitVec 12)
  /-- LWU, XLEN = 64 (R507). -/
  | lwu (rd rs1 : RegIdx) (imm : BitVec 12)
  /-- SB (R508). -/
  | sb (rs1 rs2 : RegIdx) (imm : BitVec 12)
  /-- SH (R509). -/
  | sh (rs1 rs2 : RegIdx) (imm : BitVec 12)
  /-- SW (R510). -/
  | sw (rs1 rs2 : RegIdx) (imm : BitVec 12)
  /-- SD, XLEN = 64 (R511). -/
  | sd (rs1 rs2 : RegIdx) (imm : BitVec 12)
  /-- FENCE (R520). -/
  | fence (fm pred succ : BitVec 4) (rs1 rd : RegIdx)
  /-- FENCE.I (R521). -/
  | fenceI (imm : BitVec 12) (rs1 rd : RegIdx)
  -- Multiply and divide (43_muldiv.md)
  /-- MUL (R551). -/
  | mul (rd rs1 rs2 : RegIdx)
  /-- MULH (R552). -/
  | mulh (rd rs1 rs2 : RegIdx)
  /-- MULHSU (R553). -/
  | mulhsu (rd rs1 rs2 : RegIdx)
  /-- MULHU (R554). -/
  | mulhu (rd rs1 rs2 : RegIdx)
  /-- DIV (R555). -/
  | div (rd rs1 rs2 : RegIdx)
  /-- DIVU (R556). -/
  | divu (rd rs1 rs2 : RegIdx)
  /-- REM (R557). -/
  | rem (rd rs1 rs2 : RegIdx)
  /-- REMU (R558). -/
  | remu (rd rs1 rs2 : RegIdx)
  /-- MULW, XLEN = 64 (R559). -/
  | mulw (rd rs1 rs2 : RegIdx)
  /-- DIVW, XLEN = 64 (R560). -/
  | divw (rd rs1 rs2 : RegIdx)
  /-- DIVUW, XLEN = 64 (R561). -/
  | divuw (rd rs1 rs2 : RegIdx)
  /-- REMW, XLEN = 64 (R562). -/
  | remw (rd rs1 rs2 : RegIdx)
  /-- REMUW, XLEN = 64 (R563). -/
  | remuw (rd rs1 rs2 : RegIdx)
  -- Atomics (44_atomic.md)
  /-- LR.W (R610). -/
  | lrW (rd rs1 : RegIdx) (aq rl : Bool)
  /-- SC.W (R611). -/
  | scW (rd rs1 rs2 : RegIdx) (aq rl : Bool)
  /-- LR.D, XLEN = 64 (R612). -/
  | lrD (rd rs1 : RegIdx) (aq rl : Bool)
  /-- SC.D, XLEN = 64 (R613). -/
  | scD (rd rs1 rs2 : RegIdx) (aq rl : Bool)
  /-- AMOSWAP.W (R614). -/
  | amoswapW (rd rs1 rs2 : RegIdx) (aq rl : Bool)
  /-- AMOADD.W (R615). -/
  | amoaddW (rd rs1 rs2 : RegIdx) (aq rl : Bool)
  /-- AMOXOR.W (R616). -/
  | amoxorW (rd rs1 rs2 : RegIdx) (aq rl : Bool)
  /-- AMOAND.W (R617). -/
  | amoandW (rd rs1 rs2 : RegIdx) (aq rl : Bool)
  /-- AMOOR.W (R618). -/
  | amoorW (rd rs1 rs2 : RegIdx) (aq rl : Bool)
  /-- AMOMIN.W (R619). -/
  | amominW (rd rs1 rs2 : RegIdx) (aq rl : Bool)
  /-- AMOMAX.W (R620). -/
  | amomaxW (rd rs1 rs2 : RegIdx) (aq rl : Bool)
  /-- AMOMINU.W (R621). -/
  | amominuW (rd rs1 rs2 : RegIdx) (aq rl : Bool)
  /-- AMOMAXU.W (R622). -/
  | amomaxuW (rd rs1 rs2 : RegIdx) (aq rl : Bool)
  /-- AMOSWAP.D, XLEN = 64 (R623). -/
  | amoswapD (rd rs1 rs2 : RegIdx) (aq rl : Bool)
  /-- AMOADD.D, XLEN = 64 (R624). -/
  | amoaddD (rd rs1 rs2 : RegIdx) (aq rl : Bool)
  /-- AMOXOR.D, XLEN = 64 (R625). -/
  | amoxorD (rd rs1 rs2 : RegIdx) (aq rl : Bool)
  /-- AMOAND.D, XLEN = 64 (R626). -/
  | amoandD (rd rs1 rs2 : RegIdx) (aq rl : Bool)
  /-- AMOOR.D, XLEN = 64 (R627). -/
  | amoorD (rd rs1 rs2 : RegIdx) (aq rl : Bool)
  /-- AMOMIN.D, XLEN = 64 (R628). -/
  | amominD (rd rs1 rs2 : RegIdx) (aq rl : Bool)
  /-- AMOMAX.D, XLEN = 64 (R629). -/
  | amomaxD (rd rs1 rs2 : RegIdx) (aq rl : Bool)
  /-- AMOMINU.D, XLEN = 64 (R630). -/
  | amominuD (rd rs1 rs2 : RegIdx) (aq rl : Bool)
  /-- AMOMAXU.D, XLEN = 64 (R631). -/
  | amomaxuD (rd rs1 rs2 : RegIdx) (aq rl : Bool)
  -- CSR instructions (45_csr.md)
  /-- CSRRW (R670). -/
  | csrrw (rd rs1 : RegIdx) (csr : BitVec 12)
  /-- CSRRS (R671). -/
  | csrrs (rd rs1 : RegIdx) (csr : BitVec 12)
  /-- CSRRC (R672). -/
  | csrrc (rd rs1 : RegIdx) (csr : BitVec 12)
  /-- CSRRWI (R673). -/
  | csrrwi (rd : RegIdx) (uimm : BitVec 5) (csr : BitVec 12)
  /-- CSRRSI (R674). -/
  | csrrsi (rd : RegIdx) (uimm : BitVec 5) (csr : BitVec 12)
  /-- CSRRCI (R675). -/
  | csrrci (rd : RegIdx) (uimm : BitVec 5) (csr : BitVec 12)
  -- System instructions (46_system.md)
  /-- ECALL (R700). -/
  | ecall
  /-- EBREAK (R701). -/
  | ebreak
  /-- MRET (R702). -/
  | mret
  /-- SRET (R703). -/
  | sret
  /-- WFI (R704). -/
  | wfi
  /-- SFENCE.VMA (R705). -/
  | sfenceVma (rs1 rs2 : RegIdx)
  -- Compressed instructions (47_compressed.md). An immediate operand holds exactly the bits that the row names (R322)
  /-- C.ADDI4SPN, nzuimm[9:2], not 0 (R751). -/
  | cAddi4spn (rd : CRegIdx) (nzuimm : BitVec 8)
  /-- C.LW, uimm[6:2] (R752). -/
  | cLw (rd rs1 : CRegIdx) (uimm : BitVec 5)
  /-- C.LD, uimm[7:3], XLEN = 64 (R753). -/
  | cLd (rd rs1 : CRegIdx) (uimm : BitVec 5)
  /-- C.SW, uimm[6:2] (R754). -/
  | cSw (rs1 rs2 : CRegIdx) (uimm : BitVec 5)
  /-- C.SD, uimm[7:3], XLEN = 64 (R755). -/
  | cSd (rs1 rs2 : CRegIdx) (uimm : BitVec 5)
  /-- C.NOP; imm is ignored (R756). -/
  | cNop (imm : BitVec 6)
  /-- C.ADDI, rd not 0 (R757). -/
  | cAddi (rd : RegIdx) (imm : BitVec 6)
  /-- C.JAL, offset[11:1], XLEN = 32 (R758). -/
  | cJal (offset : BitVec 11)
  /-- C.ADDIW, rd not 0, XLEN = 64 (R759). -/
  | cAddiw (rd : RegIdx) (imm : BitVec 6)
  /-- C.LI (R760). -/
  | cLi (rd : RegIdx) (imm : BitVec 6)
  /-- C.ADDI16SP, nzimm[9:4], not 0 (R761). -/
  | cAddi16sp (nzimm : BitVec 6)
  /-- C.LUI, rd not 2, nzimm[17:12], not 0 (R762). -/
  | cLui (rd : RegIdx) (nzimm : BitVec 6)
  /-- C.SRLI; with XLEN = 32 shamt[5] is 0 (R763). -/
  | cSrli (rd : CRegIdx) (shamt : BitVec 6)
  /-- C.SRAI; with XLEN = 32 shamt[5] is 0 (R764). -/
  | cSrai (rd : CRegIdx) (shamt : BitVec 6)
  /-- C.ANDI (R765). -/
  | cAndi (rd : CRegIdx) (imm : BitVec 6)
  /-- C.SUB (R766). -/
  | cSub (rd rs2 : CRegIdx)
  /-- C.XOR (R767). -/
  | cXor (rd rs2 : CRegIdx)
  /-- C.OR (R768). -/
  | cOr (rd rs2 : CRegIdx)
  /-- C.AND (R769). -/
  | cAnd (rd rs2 : CRegIdx)
  /-- C.SUBW, XLEN = 64 (R770). -/
  | cSubw (rd rs2 : CRegIdx)
  /-- C.ADDW, XLEN = 64 (R771). -/
  | cAddw (rd rs2 : CRegIdx)
  /-- C.J, offset[11:1] (R772). -/
  | cJ (offset : BitVec 11)
  /-- C.BEQZ, offset[8:1] (R773). -/
  | cBeqz (rs1 : CRegIdx) (offset : BitVec 8)
  /-- C.BNEZ, offset[8:1] (R774). -/
  | cBnez (rs1 : CRegIdx) (offset : BitVec 8)
  /-- C.SLLI; with XLEN = 32 shamt[5] is 0 (R775). -/
  | cSlli (rd : RegIdx) (shamt : BitVec 6)
  /-- C.LWSP, rd not 0, uimm[7:2] (R776). -/
  | cLwsp (rd : RegIdx) (uimm : BitVec 6)
  /-- C.LDSP, rd not 0, uimm[8:3], XLEN = 64 (R777). -/
  | cLdsp (rd : RegIdx) (uimm : BitVec 6)
  /-- C.JR, rs1 not 0 (R778). -/
  | cJr (rs1 : RegIdx)
  /-- C.MV, rs2 not 0 (R779). -/
  | cMv (rd rs2 : RegIdx)
  /-- C.EBREAK (R780). -/
  | cEbreak
  /-- C.JALR, rs1 not 0 (R781). -/
  | cJalr (rs1 : RegIdx)
  /-- C.ADD, rs2 not 0 (R782). -/
  | cAdd (rd rs2 : RegIdx)
  /-- C.SWSP, uimm[7:2] (R783). -/
  | cSwsp (rs2 : RegIdx) (uimm : BitVec 6)
  /-- C.SDSP, uimm[8:3], XLEN = 64 (R784). -/
  | cSdsp (rs2 : RegIdx) (uimm : BitVec 6)
deriving DecidableEq, Repr

end Sys2Proof
end

