-- ==== Sys2Proof/WellFormed.lean ====
section
/-! DEFINITION. Which terms of `Instr` are instructions of the hart with a given XLEN: the XLEN columns of
spec/opcode_table.json and the "constraints" of its rows (R330, R340, R345). -/

namespace Sys2Proof

/-- The instruction exists when XLEN = 64 only (R340, the rows with xlen "64"). -/
def Instr.rv64Only : Instr → Bool
  | .addiw .. | .slliw .. | .srliw .. | .sraiw .. | .addw .. | .subw .. | .sllw .. | .srlw .. | .sraw ..
  | .ld .. | .lwu .. | .sd .. | .mulw .. | .divw .. | .divuw .. | .remw .. | .remuw ..
  | .lrD .. | .scD .. | .amoswapD .. | .amoaddD .. | .amoxorD .. | .amoandD .. | .amoorD ..
  | .amominD .. | .amomaxD .. | .amominuD .. | .amomaxuD ..
  | .cLd .. | .cSd .. | .cAddiw .. | .cSubw .. | .cAddw .. | .cLdsp .. | .cSdsp .. => true
  | .lui .. | .auipc .. | .addi .. | .slti .. | .sltiu .. | .xori .. | .ori .. | .andi ..
  | .slli .. | .srli .. | .srai .. | .add .. | .sub .. | .sll .. | .slt .. | .sltu .. | .xor .. | .srl .. | .sra ..
  | .or .. | .and .. | .jal .. | .jalr .. | .beq .. | .bne .. | .blt .. | .bge .. | .bltu .. | .bgeu ..
  | .lb .. | .lh .. | .lw .. | .lbu .. | .lhu .. | .sb .. | .sh .. | .sw .. | .fence .. | .fenceI ..
  | .mul .. | .mulh .. | .mulhsu .. | .mulhu .. | .div .. | .divu .. | .rem .. | .remu ..
  | .lrW .. | .scW .. | .amoswapW .. | .amoaddW .. | .amoxorW .. | .amoandW .. | .amoorW ..
  | .amominW .. | .amomaxW .. | .amominuW .. | .amomaxuW ..
  | .csrrw .. | .csrrs .. | .csrrc .. | .csrrwi .. | .csrrsi .. | .csrrci ..
  | .ecall | .ebreak | .mret | .sret | .wfi | .sfenceVma ..
  | .cAddi4spn .. | .cLw .. | .cSw .. | .cNop .. | .cAddi .. | .cJal .. | .cLi .. | .cAddi16sp .. | .cLui ..
  | .cSrli .. | .cSrai .. | .cAndi .. | .cSub .. | .cXor .. | .cOr .. | .cAnd .. | .cJ .. | .cBeqz .. | .cBnez ..
  | .cSlli .. | .cLwsp .. | .cJr .. | .cMv .. | .cEbreak | .cJalr .. | .cAdd .. | .cSwsp .. => false

/-- A shift amount is below XLEN: shamt[5] = 0 when XLEN = 32 (R315, R323, R326). -/
def shamtOk : Xlen → BitVec 6 → Bool
  | .rv32, shamt => !shamt.getLsbD 5
  | .rv64, _ => true

/-- The constraint of the instruction's row, besides its XLEN column. -/
def Instr.rowOk (x : Xlen) : Instr → Bool
  | .slli _ _ shamt => shamtOk x shamt
  | .srli _ _ shamt => shamtOk x shamt
  | .srai _ _ shamt => shamtOk x shamt
  | .cSrli _ shamt => shamtOk x shamt
  | .cSrai _ shamt => shamtOk x shamt
  | .cSlli _ shamt => shamtOk x shamt
  | .cAddi4spn _ nzuimm => nzuimm != 0
  | .cAddi rd _ => rd != 0
  | .cAddiw rd _ => rd != 0
  | .cLwsp rd _ => rd != 0
  | .cLdsp rd _ => rd != 0
  | .cAddi16sp nzimm => nzimm != 0
  | .cLui rd nzimm => rd != 2 && nzimm != 0
  | .cJr rs1 => rs1 != 0
  | .cJalr rs1 => rs1 != 0
  | .cMv _ rs2 => rs2 != 0
  | .cAdd _ rs2 => rs2 != 0
  | .cJal _ => x == .rv32
  | _ => true

/-- `i` is an instruction of the hart with XLEN `x`. -/
def Instr.wf (x : Xlen) (i : Instr) : Bool :=
  (!i.rv64Only || x == .rv64) && i.rowOk x

end Sys2Proof
end

