-- ==== Sys2Proof/Decode.lean ====
section
/-! DEFINITION. The instruction decoder and dispatcher (30_encoding.md): the two dispatch tables, the second-level decode,
and after them the encoder. Decoding is total: every word is an instruction or is rejected by a named reason. -/

namespace Sys2Proof

/-- "a raw 16- or 32-bit value, immutable once fetched" (R300). -/
inductive Raw where
  | half (h : BitVec 16)
  | full (w : BitVec 32)
deriving DecidableEq, Repr

/-- The instruction's length in bytes (R301). -/
def Raw.len : Raw → Nat
  | .half _ => 2
  | .full _ => 4

/-- The instruction bits as a trap value: a 16-bit word is zero-extended (R340, R902). -/
def Raw.bits : Raw → Word
  | .half h => h.setWidth 64
  | .full w => w.setWidth 64

/-- Why a word is no instruction. Each reason raises IllegalInstruction (R340). -/
inductive Illegal where
  /-- The id selects a slot with no handler (R312). -/
  | uninstalled
  /-- The handler's check of the bits outside the id failed (R330). -/
  | secondLevel
  /-- A reserved compressed encoding (R345). -/
  | reserved
  /-- A byte list too short to hold the instruction (of `decodeBytes` only; a fetch never answers this). -/
  | truncated
deriving DecidableEq, Repr

/-! ### The full-width dispatch table -/

/-- The handlers of the full-width table (R315-R318). A name joined of two is one slot that two instructions share, told
apart by funct7 (R316). -/
inductive Handler where
  | lb | lh | lw | ld | lbu | lhu | lwu
  | fence | fenceI
  | addi | slti | sltiu | xori | ori | andi | slli | srli | srai
  | auipc
  | addiw | slliw | srliw | sraiw
  | sb | sh | sw | sd
  | amoW | amoD
  | addMul | sub | sllMulh | sltMulhsu | sltuMulhu | xorDiv | srlDivu | sra | orRem | andRemu
  | lui
  | addwMulw | subw | sllw | divw | srlwDivuw | sraw | remw | remuw
  | beq | bne | blt | bge | bltu | bgeu
  | jalr | jal
  | systemPriv | csrrw | csrrs | csrrc | csrrwi | csrrsi | csrrci
deriving DecidableEq, Repr

/-- The function id: `(inst[30] << 8) | (inst[14:12] << 5) | inst[6:2]` (R310). -/
def fid (w : BitVec 32) : BitVec 9 :=
  w.extractLsb' 30 1 ++ w.extractLsb' 12 3 ++ w.extractLsb' 2 5

/-- A handler that exists when XLEN = 64 only. -/
def only64 (x : Xlen) (h : Handler) : Option Handler :=
  match x with
  | .rv32 => none
  | .rv64 => some h

/-- LOAD slots, both values of inst[30] (R315). -/
def loadSlot (x : Xlen) (f3 : BitVec 3) : Option Handler :=
  match f3 with
  | 0b000#3 => some .lb
  | 0b001#3 => some .lh
  | 0b010#3 => some .lw
  | 0b011#3 => only64 x .ld
  | 0b100#3 => some .lbu
  | 0b101#3 => some .lhu
  | 0b110#3 => only64 x .lwu
  | _ => none

/-- MISC-MEM slots, both values of inst[30] (R315). -/
def miscMemSlot (f3 : BitVec 3) : Option Handler :=
  match f3 with
  | 0b000#3 => some .fence
  | 0b001#3 => some .fenceI
  | _ => none

/-- OP-IMM slots: the shifts take one value of inst[30], the others both (R315). -/
def opImmSlot (f3 : BitVec 3) (b30 : Bool) : Option Handler :=
  match f3 with
  | 0b000#3 => some .addi
  | 0b001#3 => if b30 then none else some .slli
  | 0b010#3 => some .slti
  | 0b011#3 => some .sltiu
  | 0b100#3 => some .xori
  | 0b101#3 => if b30 then some .srai else some .srli
  | 0b110#3 => some .ori
  | _ => some .andi

/-- OP-IMM-32 slots, XLEN = 64 (R315). -/
def opImm32Slot (x : Xlen) (f3 : BitVec 3) (b30 : Bool) : Option Handler :=
  match f3 with
  | 0b000#3 => only64 x .addiw
  | 0b001#3 => if b30 then none else only64 x .slliw
  | 0b101#3 => if b30 then only64 x .sraiw else only64 x .srliw
  | _ => none

/-- STORE slots, both values of inst[30] (R315). -/
def storeSlot (x : Xlen) (f3 : BitVec 3) : Option Handler :=
  match f3 with
  | 0b000#3 => some .sb
  | 0b001#3 => some .sh
  | 0b010#3 => some .sw
  | 0b011#3 => only64 x .sd
  | _ => none

/-- AMO slots; inst[30] is part of funct5, which the handler decodes itself (R317). -/
def amoSlot (x : Xlen) (f3 : BitVec 3) : Option Handler :=
  match f3 with
  | 0b010#3 => some .amoW
  | 0b011#3 => only64 x .amoD
  | _ => none

/-- OP slots (R316). -/
def opSlot (f3 : BitVec 3) (b30 : Bool) : Option Handler :=
  match f3 with
  | 0b000#3 => if b30 then some .sub else some .addMul
  | 0b001#3 => if b30 then none else some .sllMulh
  | 0b010#3 => if b30 then none else some .sltMulhsu
  | 0b011#3 => if b30 then none else some .sltuMulhu
  | 0b100#3 => if b30 then none else some .xorDiv
  | 0b101#3 => if b30 then some .sra else some .srlDivu
  | 0b110#3 => if b30 then none else some .orRem
  | _ => if b30 then none else some .andRemu

/-- OP-32 slots, XLEN = 64 (R316). -/
def op32Slot (x : Xlen) (f3 : BitVec 3) (b30 : Bool) : Option Handler :=
  match f3 with
  | 0b000#3 => if b30 then only64 x .subw else only64 x .addwMulw
  | 0b001#3 => if b30 then none else only64 x .sllw
  | 0b100#3 => if b30 then none else only64 x .divw
  | 0b101#3 => if b30 then only64 x .sraw else only64 x .srlwDivuw
  | 0b110#3 => if b30 then none else only64 x .remw
  | 0b111#3 => if b30 then none else only64 x .remuw
  | _ => none

/-- BRANCH slots, both values of inst[30] (R315, R459). -/
def branchSlot (f3 : BitVec 3) : Option Handler :=
  match f3 with
  | 0b000#3 => some .beq
  | 0b001#3 => some .bne
  | 0b100#3 => some .blt
  | 0b101#3 => some .bge
  | 0b110#3 => some .bltu
  | 0b111#3 => some .bgeu
  | _ => none

/-- SYSTEM slots, both values of inst[30] (R315). -/
def systemSlot (f3 : BitVec 3) : Option Handler :=
  match f3 with
  | 0b000#3 => some .systemPriv
  | 0b001#3 => some .csrrw
  | 0b010#3 => some .csrrs
  | 0b011#3 => some .csrrc
  | 0b101#3 => some .csrrwi
  | 0b110#3 => some .csrrsi
  | 0b111#3 => some .csrrci
  | _ => none

/-- The opcode map (R314): which handlers the sixteen slots of one op5 hold. An op5 not named here has no installed slot. -/
def slotOf (x : Xlen) (op5 : BitVec 5) (f3 : BitVec 3) (b30 : Bool) : Option Handler :=
  match op5 with
  | 0b00000#5 => loadSlot x f3
  | 0b00011#5 => miscMemSlot f3
  | 0b00100#5 => opImmSlot f3 b30
  | 0b00101#5 => some .auipc
  | 0b00110#5 => opImm32Slot x f3 b30
  | 0b01000#5 => storeSlot x f3
  | 0b01011#5 => amoSlot x f3
  | 0b01100#5 => opSlot f3 b30
  | 0b01101#5 => some .lui
  | 0b01110#5 => op32Slot x f3 b30
  | 0b11000#5 => branchSlot f3
  | 0b11001#5 => if f3 = 0b000#3 then some .jalr else none
  | 0b11011#5 => some .jal
  | 0b11100#5 => systemSlot f3
  | _ => none

/-- The full-width dispatch table: 512 slots, indexed by the function id (R310, R313). -/
def slot32 (x : Xlen) (id : BitVec 9) : Option Handler :=
  slotOf x (id.extractLsb' 0 5) (id.extractLsb' 5 3) (id.getLsbD 8)

/-! ### Fields of a 32-bit word (R305, R306) -/

/-- inst[11:7]. -/
def fRd (w : BitVec 32) : RegIdx := w.extractLsb' 7 5
/-- inst[19:15]. -/
def fRs1 (w : BitVec 32) : RegIdx := w.extractLsb' 15 5
/-- inst[24:20]. -/
def fRs2 (w : BitVec 32) : RegIdx := w.extractLsb' 20 5
/-- inst[31:25]. -/
def fFunct7 (w : BitVec 32) : BitVec 7 := w.extractLsb' 25 7
/-- inst[31:20]: the I immediate, a CSR address, funct12. -/
def fImmI (w : BitVec 32) : BitVec 12 := w.extractLsb' 20 12
/-- The S immediate: inst[31:25], inst[11:7]. -/
def fImmS (w : BitVec 32) : BitVec 12 := w.extractLsb' 25 7 ++ w.extractLsb' 7 5
/-- Bits 12:1 of the B immediate: inst[31], inst[7], inst[30:25], inst[11:8]. -/
def fImmB (w : BitVec 32) : BitVec 12 :=
  w.extractLsb' 31 1 ++ w.extractLsb' 7 1 ++ w.extractLsb' 25 6 ++ w.extractLsb' 8 4
/-- inst[31:12], the U immediate's upper 20 bits. -/
def fImmU (w : BitVec 32) : BitVec 20 := w.extractLsb' 12 20
/-- Bits 20:1 of the J immediate: inst[31], inst[19:12], inst[20], inst[30:21]. -/
def fImmJ (w : BitVec 32) : BitVec 20 :=
  w.extractLsb' 31 1 ++ w.extractLsb' 12 8 ++ w.extractLsb' 20 1 ++ w.extractLsb' 21 10
/-- inst[25:20], a shift amount of XLEN = 64. -/
def fShamt (w : BitVec 32) : BitVec 6 := w.extractLsb' 20 6
/-- inst[31:26]. -/
def fFunct6 (w : BitVec 32) : BitVec 6 := w.extractLsb' 26 6
/-- inst[26]. -/
def fAq (w : BitVec 32) : Bool := w.getLsbD 26
/-- inst[25]. -/
def fRl (w : BitVec 32) : Bool := w.getLsbD 25

/-! ### Second-level decode (R330) -/

/-- An instruction whose remaining fixed bits match, or the failed check. -/
def checked (ok : Bool) (i : Instr) : Except Illegal Instr :=
  if ok then .ok i else .error .secondLevel

/-- A slot that base and M instructions share, told apart by funct7 (R316). -/
def byFunct7 (w : BitVec 32) (base mExt : RegIdx → RegIdx → RegIdx → Instr) : Except Illegal Instr :=
  match fFunct7 w with
  | 0b0000000#7 => .ok (base (fRd w) (fRs1 w) (fRs2 w))
  | 0b0000001#7 => .ok (mExt (fRd w) (fRs1 w) (fRs2 w))
  | _ => .error .secondLevel

/-- A slot of one R-type instruction with the given funct7. -/
def withFunct7 (w : BitVec 32) (f7 : BitVec 7) (mk : RegIdx → RegIdx → RegIdx → Instr) : Except Illegal Instr :=
  checked (fFunct7 w == f7) (mk (fRd w) (fRs1 w) (fRs2 w))

/-- The shift-immediates: funct6, and inst[25] = 0 too when XLEN = 32 (R315). -/
def shiftImm (x : Xlen) (w : BitVec 32) (f6 : BitVec 6) (mk : RegIdx → RegIdx → BitVec 6 → Instr) : Except Illegal Instr :=
  checked (fFunct6 w == f6 && shamtOk x (fShamt w)) (mk (fRd w) (fRs1 w) (fShamt w))

/-- The W shifts: funct7, so shamt[5] must be 0 (R422-R424). -/
def shiftImmW (w : BitVec 32) (f7 : BitVec 7) (mk : RegIdx → RegIdx → BitVec 5 → Instr) : Except Illegal Instr :=
  checked (fFunct7 w == f7) (mk (fRd w) (fRs1 w) (fRs2 w))

/-- The atomic unit's own decode of funct5, word forms (R317, R606). -/
def amoWords (w : BitVec 32) : Except Illegal Instr :=
  let rd := fRd w
  let rs1 := fRs1 w
  let rs2 := fRs2 w
  let aq := fAq w
  let rl := fRl w
  match w.extractLsb' 27 5 with
  | 0b00010#5 => checked (rs2 == 0) (.lrW rd rs1 aq rl)
  | 0b00011#5 => .ok (.scW rd rs1 rs2 aq rl)
  | 0b00001#5 => .ok (.amoswapW rd rs1 rs2 aq rl)
  | 0b00000#5 => .ok (.amoaddW rd rs1 rs2 aq rl)
  | 0b00100#5 => .ok (.amoxorW rd rs1 rs2 aq rl)
  | 0b01100#5 => .ok (.amoandW rd rs1 rs2 aq rl)
  | 0b01000#5 => .ok (.amoorW rd rs1 rs2 aq rl)
  | 0b10000#5 => .ok (.amominW rd rs1 rs2 aq rl)
  | 0b10100#5 => .ok (.amomaxW rd rs1 rs2 aq rl)
  | 0b11000#5 => .ok (.amominuW rd rs1 rs2 aq rl)
  | 0b11100#5 => .ok (.amomaxuW rd rs1 rs2 aq rl)
  | _ => .error .secondLevel

/-- The atomic unit's own decode of funct5, doubleword forms (R317, R606). -/
def amoDoubles (w : BitVec 32) : Except Illegal Instr :=
  let rd := fRd w
  let rs1 := fRs1 w
  let rs2 := fRs2 w
  let aq := fAq w
  let rl := fRl w
  match w.extractLsb' 27 5 with
  | 0b00010#5 => checked (rs2 == 0) (.lrD rd rs1 aq rl)
  | 0b00011#5 => .ok (.scD rd rs1 rs2 aq rl)
  | 0b00001#5 => .ok (.amoswapD rd rs1 rs2 aq rl)
  | 0b00000#5 => .ok (.amoaddD rd rs1 rs2 aq rl)
  | 0b00100#5 => .ok (.amoxorD rd rs1 rs2 aq rl)
  | 0b01100#5 => .ok (.amoandD rd rs1 rs2 aq rl)
  | 0b01000#5 => .ok (.amoorD rd rs1 rs2 aq rl)
  | 0b10000#5 => .ok (.amominD rd rs1 rs2 aq rl)
  | 0b10100#5 => .ok (.amomaxD rd rs1 rs2 aq rl)
  | 0b11000#5 => .ok (.amominuD rd rs1 rs2 aq rl)
  | 0b11100#5 => .ok (.amomaxuD rd rs1 rs2 aq rl)
  | _ => .error .secondLevel

/-- The SYSTEM-PRIV handler matches the whole word; SFENCE.VMA leaves rs1 and rs2 free (R318, R706). -/
def systemPriv (w : BitVec 32) : Except Illegal Instr :=
  if fRd w ≠ 0 then .error .secondLevel
  else if fFunct7 w = 0b0001001#7 then .ok (.sfenceVma (fRs1 w) (fRs2 w))
  else if fRs1 w ≠ 0 then .error .secondLevel
  else
    match fImmI w with
    | 0x000#12 => .ok .ecall
    | 0x001#12 => .ok .ebreak
    | 0x102#12 => .ok .sret
    | 0x302#12 => .ok .mret
    | 0x105#12 => .ok .wfi
    | _ => .error .secondLevel

/-- What the handler of a slot makes of the word. -/
def secondLevel (x : Xlen) (h : Handler) (w : BitVec 32) : Except Illegal Instr :=
  match h with
  | .lb => .ok (.lb (fRd w) (fRs1 w) (fImmI w))
  | .lh => .ok (.lh (fRd w) (fRs1 w) (fImmI w))
  | .lw => .ok (.lw (fRd w) (fRs1 w) (fImmI w))
  | .ld => .ok (.ld (fRd w) (fRs1 w) (fImmI w))
  | .lbu => .ok (.lbu (fRd w) (fRs1 w) (fImmI w))
  | .lhu => .ok (.lhu (fRd w) (fRs1 w) (fImmI w))
  | .lwu => .ok (.lwu (fRd w) (fRs1 w) (fImmI w))
  | .fence => .ok (.fence (w.extractLsb' 28 4) (w.extractLsb' 24 4) (w.extractLsb' 20 4) (fRs1 w) (fRd w))
  | .fenceI => .ok (.fenceI (fImmI w) (fRs1 w) (fRd w))
  | .addi => .ok (.addi (fRd w) (fRs1 w) (fImmI w))
  | .slti => .ok (.slti (fRd w) (fRs1 w) (fImmI w))
  | .sltiu => .ok (.sltiu (fRd w) (fRs1 w) (fImmI w))
  | .xori => .ok (.xori (fRd w) (fRs1 w) (fImmI w))
  | .ori => .ok (.ori (fRd w) (fRs1 w) (fImmI w))
  | .andi => .ok (.andi (fRd w) (fRs1 w) (fImmI w))
  | .slli => shiftImm x w 0b000000#6 .slli
  | .srli => shiftImm x w 0b000000#6 .srli
  | .srai => shiftImm x w 0b010000#6 .srai
  | .auipc => .ok (.auipc (fRd w) (fImmU w))
  | .addiw => .ok (.addiw (fRd w) (fRs1 w) (fImmI w))
  | .slliw => shiftImmW w 0b0000000#7 .slliw
  | .srliw => shiftImmW w 0b0000000#7 .srliw
  | .sraiw => shiftImmW w 0b0100000#7 .sraiw
  | .sb => .ok (.sb (fRs1 w) (fRs2 w) (fImmS w))
  | .sh => .ok (.sh (fRs1 w) (fRs2 w) (fImmS w))
  | .sw => .ok (.sw (fRs1 w) (fRs2 w) (fImmS w))
  | .sd => .ok (.sd (fRs1 w) (fRs2 w) (fImmS w))
  | .amoW => amoWords w
  | .amoD => amoDoubles w
  | .addMul => byFunct7 w .add .mul
  | .sub => withFunct7 w 0b0100000#7 .sub
  | .sllMulh => byFunct7 w .sll .mulh
  | .sltMulhsu => byFunct7 w .slt .mulhsu
  | .sltuMulhu => byFunct7 w .sltu .mulhu
  | .xorDiv => byFunct7 w .xor .div
  | .srlDivu => byFunct7 w .srl .divu
  | .sra => withFunct7 w 0b0100000#7 .sra
  | .orRem => byFunct7 w .or .rem
  | .andRemu => byFunct7 w .and .remu
  | .lui => .ok (.lui (fRd w) (fImmU w))
  | .addwMulw => byFunct7 w .addw .mulw
  | .subw => withFunct7 w 0b0100000#7 .subw
  | .sllw => withFunct7 w 0b0000000#7 .sllw
  | .divw => withFunct7 w 0b0000001#7 .divw
  | .srlwDivuw => byFunct7 w .srlw .divuw
  | .sraw => withFunct7 w 0b0100000#7 .sraw
  | .remw => withFunct7 w 0b0000001#7 .remw
  | .remuw => withFunct7 w 0b0000001#7 .remuw
  | .beq => .ok (.beq (fRs1 w) (fRs2 w) (fImmB w))
  | .bne => .ok (.bne (fRs1 w) (fRs2 w) (fImmB w))
  | .blt => .ok (.blt (fRs1 w) (fRs2 w) (fImmB w))
  | .bge => .ok (.bge (fRs1 w) (fRs2 w) (fImmB w))
  | .bltu => .ok (.bltu (fRs1 w) (fRs2 w) (fImmB w))
  | .bgeu => .ok (.bgeu (fRs1 w) (fRs2 w) (fImmB w))
  | .jalr => .ok (.jalr (fRd w) (fRs1 w) (fImmI w))
  | .jal => .ok (.jal (fRd w) (fImmJ w))
  | .systemPriv => systemPriv w
  | .csrrw => .ok (.csrrw (fRd w) (fRs1 w) (fImmI w))
  | .csrrs => .ok (.csrrs (fRd w) (fRs1 w) (fImmI w))
  | .csrrc => .ok (.csrrc (fRd w) (fRs1 w) (fImmI w))
  | .csrrwi => .ok (.csrrwi (fRd w) (fRs1 w) (fImmI w))
  | .csrrsi => .ok (.csrrsi (fRd w) (fRs1 w) (fImmI w))
  | .csrrci => .ok (.csrrci (fRd w) (fRs1 w) (fImmI w))

/-- `Dispatch32`: the slot of the word's function id, then that handler's own decode (R301, R310-R318, R330). -/
def decode32 (x : Xlen) (w : BitVec 32) : Except Illegal Instr :=
  match slot32 x (fid w) with
  | none => .error .uninstalled
  | some h => secondLevel x h w

/-! ### The compressed dispatch table (R320-R328) -/

/-- The handlers of the compressed table (R323). `luiAddi16sp` is cid 13; `miscAlu` and `cr` are the glue entries (R324). -/
inductive CHandler where
  | addi4spn | lw | ld | sw | sd
  | addiNop | jal | addiw | li | luiAddi16sp | miscAlu | j | beqz | bnez
  | slli | lwsp | ldsp | cr | swsp | sdsp
deriving DecidableEq, Repr

/-- The compressed id: `(inst16[15:13] << 2) | inst16[1:0]` (R320). -/
def cid (h : BitVec 16) : BitVec 5 :=
  h.extractLsb' 13 3 ++ h.extractLsb' 0 2

/-- A compressed handler that exists when XLEN = 64 only. -/
def cOnly64 (x : Xlen) (h : CHandler) : Option CHandler :=
  match x with
  | .rv32 => none
  | .rv64 => some h

/-- The compressed dispatch table (R323). -/
def slot16 (x : Xlen) (id : BitVec 5) : Option CHandler :=
  match id with
  | 0#5 => some .addi4spn
  | 8#5 => some .lw
  | 12#5 => cOnly64 x .ld
  | 24#5 => some .sw
  | 28#5 => cOnly64 x .sd
  | 1#5 => some .addiNop
  | 5#5 => if x = .rv32 then some .jal else some .addiw
  | 9#5 => some .li
  | 13#5 => some .luiAddi16sp
  | 17#5 => some .miscAlu
  | 21#5 => some .j
  | 25#5 => some .beqz
  | 29#5 => some .bnez
  | 2#5 => some .slli
  | 10#5 => some .lwsp
  | 14#5 => cOnly64 x .ldsp
  | 18#5 => some .cr
  | 26#5 => some .swsp
  | 30#5 => cOnly64 x .sdsp
  | _ => none

/-! ### Fields of a compressed word (R321, R322) -/

/-- inst[11:7], rd or rs1. -/
def cRd (h : BitVec 16) : RegIdx := h.extractLsb' 7 5
/-- inst[6:2], rs2. -/
def cRs2 (h : BitVec 16) : RegIdx := h.extractLsb' 2 5
/-- inst[9:7], rs1' or rd'. -/
def cHi (h : BitVec 16) : CRegIdx := h.extractLsb' 7 3
/-- inst[4:2], rd' or rs2'. -/
def cLo (h : BitVec 16) : CRegIdx := h.extractLsb' 2 3
/-- inst[12], inst[6:2]: imm[5:0], shamt[5:0], nzimm[17:12]. -/
def cImm6 (h : BitVec 16) : BitVec 6 := h.extractLsb' 12 1 ++ h.extractLsb' 2 5
/-- nzuimm[9:2] of C.ADDI4SPN. -/
def cImm4spn (h : BitVec 16) : BitVec 8 :=
  h.extractLsb' 7 4 ++ h.extractLsb' 11 2 ++ h.extractLsb' 5 1 ++ h.extractLsb' 6 1
/-- uimm[6:2] of C.LW and C.SW. -/
def cImmW (h : BitVec 16) : BitVec 5 := h.extractLsb' 5 1 ++ h.extractLsb' 10 3 ++ h.extractLsb' 6 1
/-- uimm[7:3] of C.LD and C.SD. -/
def cImmD (h : BitVec 16) : BitVec 5 := h.extractLsb' 5 2 ++ h.extractLsb' 10 3
/-- nzimm[9:4] of C.ADDI16SP. -/
def cImm16sp (h : BitVec 16) : BitVec 6 :=
  h.extractLsb' 12 1 ++ h.extractLsb' 3 2 ++ h.extractLsb' 5 1 ++ h.extractLsb' 2 1 ++ h.extractLsb' 6 1
/-- offset[11:1] of C.J and C.JAL. -/
def cImmJ (h : BitVec 16) : BitVec 11 :=
  h.extractLsb' 12 1 ++ h.extractLsb' 8 1 ++ h.extractLsb' 9 2 ++ h.extractLsb' 6 1 ++ h.extractLsb' 7 1
    ++ h.extractLsb' 2 1 ++ h.extractLsb' 11 1 ++ h.extractLsb' 3 3
/-- offset[8:1] of C.BEQZ and C.BNEZ. -/
def cImmB (h : BitVec 16) : BitVec 8 :=
  h.extractLsb' 12 1 ++ h.extractLsb' 5 2 ++ h.extractLsb' 2 1 ++ h.extractLsb' 10 2 ++ h.extractLsb' 3 2
/-- uimm[7:2] of C.LWSP. -/
def cImmLwsp (h : BitVec 16) : BitVec 6 := h.extractLsb' 2 2 ++ h.extractLsb' 12 1 ++ h.extractLsb' 4 3
/-- uimm[8:3] of C.LDSP. -/
def cImmLdsp (h : BitVec 16) : BitVec 6 := h.extractLsb' 2 3 ++ h.extractLsb' 12 1 ++ h.extractLsb' 5 2
/-- uimm[7:2] of C.SWSP. -/
def cImmSwsp (h : BitVec 16) : BitVec 6 := h.extractLsb' 7 2 ++ h.extractLsb' 9 4
/-- uimm[8:3] of C.SDSP. -/
def cImmSdsp (h : BitVec 16) : BitVec 6 := h.extractLsb' 7 3 ++ h.extractLsb' 10 3

/-- An instruction, or a reserved encoding where the constraint fails (R345). -/
def unreserved (ok : Bool) (i : Instr) : Except Illegal Instr :=
  if ok then .ok i else .error .reserved

/-- Cid 13: C.ADDI16SP where rd = 2, else C.LUI (R325). -/
def decodeLuiAddi16sp (h : BitVec 16) : Except Illegal Instr :=
  if cRd h = 2 then unreserved (cImm16sp h != 0) (.cAddi16sp (cImm16sp h))
  else unreserved (cImm6 h != 0) (.cLui (cRd h) (cImm6 h))

/-- Cid 17, the MISC-ALU glue entry (R326). -/
def decodeMiscAlu (x : Xlen) (h : BitVec 16) : Except Illegal Instr :=
  match h.extractLsb' 10 2 with
  | 0b00#2 => unreserved (shamtOk x (cImm6 h)) (.cSrli (cHi h) (cImm6 h))
  | 0b01#2 => unreserved (shamtOk x (cImm6 h)) (.cSrai (cHi h) (cImm6 h))
  | 0b10#2 => .ok (.cAndi (cHi h) (cImm6 h))
  | _ =>
    match h.getLsbD 12, h.extractLsb' 5 2 with
    | false, 0b00#2 => .ok (.cSub (cHi h) (cLo h))
    | false, 0b01#2 => .ok (.cXor (cHi h) (cLo h))
    | false, 0b10#2 => .ok (.cOr (cHi h) (cLo h))
    | false, _ => .ok (.cAnd (cHi h) (cLo h))
    | true, 0b00#2 => unreserved (x == .rv64) (.cSubw (cHi h) (cLo h))
    | true, 0b01#2 => unreserved (x == .rv64) (.cAddw (cHi h) (cLo h))
    | true, _ => .error .reserved

/-- Cid 18, the CR glue entry (R327). -/
def decodeCr (h : BitVec 16) : Except Illegal Instr :=
  match h.getLsbD 12 with
  | false =>
    if cRs2 h = 0 then unreserved (cRd h != 0) (.cJr (cRd h)) else .ok (.cMv (cRd h) (cRs2 h))
  | true =>
    if cRs2 h = 0 then (if cRd h = 0 then .ok .cEbreak else .ok (.cJalr (cRd h))) else .ok (.cAdd (cRd h) (cRs2 h))

/-- What the handler of a compressed slot makes of the word (R323-R327). -/
def cSecondLevel (x : Xlen) (c : CHandler) (h : BitVec 16) : Except Illegal Instr :=
  match c with
  | .addi4spn => unreserved (cImm4spn h != 0) (.cAddi4spn (cLo h) (cImm4spn h))
  | .lw => .ok (.cLw (cLo h) (cHi h) (cImmW h))
  | .ld => .ok (.cLd (cLo h) (cHi h) (cImmD h))
  | .sw => .ok (.cSw (cHi h) (cLo h) (cImmW h))
  | .sd => .ok (.cSd (cHi h) (cLo h) (cImmD h))
  | .addiNop => if cRd h = 0 then .ok (.cNop (cImm6 h)) else .ok (.cAddi (cRd h) (cImm6 h))
  | .jal => .ok (.cJal (cImmJ h))
  | .addiw => unreserved (cRd h != 0) (.cAddiw (cRd h) (cImm6 h))
  | .li => .ok (.cLi (cRd h) (cImm6 h))
  | .luiAddi16sp => decodeLuiAddi16sp h
  | .miscAlu => decodeMiscAlu x h
  | .j => .ok (.cJ (cImmJ h))
  | .beqz => .ok (.cBeqz (cHi h) (cImmB h))
  | .bnez => .ok (.cBnez (cHi h) (cImmB h))
  | .slli => unreserved (shamtOk x (cImm6 h)) (.cSlli (cRd h) (cImm6 h))
  | .lwsp => unreserved (cRd h != 0) (.cLwsp (cRd h) (cImmLwsp h))
  | .ldsp => unreserved (cRd h != 0) (.cLdsp (cRd h) (cImmLdsp h))
  | .cr => decodeCr h
  | .swsp => .ok (.cSwsp (cRs2 h) (cImmSwsp h))
  | .sdsp => .ok (.cSdsp (cRs2 h) (cImmSdsp h))

/-- `Dispatch16` (R301, R320-R327). -/
def decode16 (x : Xlen) (h : BitVec 16) : Except Illegal Instr :=
  match slot16 x (cid h) with
  | none => .error .uninstalled
  | some c => cSecondLevel x c h

/-- The decoder of the hart with XLEN `x`: total, an instruction or a named reason. -/
def decode (x : Xlen) : Raw → Except Illegal Instr
  | .half h => decode16 x h
  | .full w => decode32 x w

/-- A 16-bit parcel from its two bytes, the first at the lower address (R201). -/
def parcel (b0 b1 : Byte) : BitVec 16 := b1 ++ b0

/-- The raw instruction at the head of a byte list: 16 bits when bits [1:0] of the first parcel are not `11` (R301). -/
def rawOfBytes : List Byte → Except Illegal (Raw × List Byte)
  | b0 :: b1 :: rest =>
    if b0.extractLsb' 0 2 ≠ 0b11#2 then .ok (.half (parcel b0 b1), rest)
    else
      match rest with
      | b2 :: b3 :: rest' => .ok (.full (parcel b2 b3 ++ parcel b0 b1), rest')
      | _ => .error .truncated
  | _ => .error .truncated

/-- Decode the instruction at the head of a byte list; answers it with the bytes after it. -/
def decodeBytes (x : Xlen) (bs : List Byte) : Except Illegal (Instr × List Byte) :=
  match rawOfBytes bs with
  | .error e => .error e
  | .ok (raw, rest) =>
    match decode x raw with
    | .error e => .error e
    | .ok i => .ok (i, rest)

/-! ### The encoder -/

/-- Format R (R305). -/
def rType (f7 : BitVec 7) (rs2 rs1 : RegIdx) (f3 : BitVec 3) (rd : RegIdx) (op5 : BitVec 5) : BitVec 32 :=
  f7 ++ rs2 ++ rs1 ++ f3 ++ rd ++ op5 ++ 0b11#2

/-- Format I (R305). -/
def iType (imm : BitVec 12) (rs1 : RegIdx) (f3 : BitVec 3) (rd : RegIdx) (op5 : BitVec 5) : BitVec 32 :=
  imm ++ rs1 ++ f3 ++ rd ++ op5 ++ 0b11#2

/-- Format S (R305). -/
def sType (imm : BitVec 12) (rs2 rs1 : RegIdx) (f3 : BitVec 3) (op5 : BitVec 5) : BitVec 32 :=
  imm.extractLsb' 5 7 ++ rs2 ++ rs1 ++ f3 ++ imm.extractLsb' 0 5 ++ op5 ++ 0b11#2

/-- Format B; `offset` holds bits 12:1 of the immediate (R305). -/
def bType (offset : BitVec 12) (rs2 rs1 : RegIdx) (f3 : BitVec 3) : BitVec 32 :=
  offset.extractLsb' 11 1 ++ offset.extractLsb' 4 6 ++ rs2 ++ rs1 ++ f3 ++ offset.extractLsb' 0 4
    ++ offset.extractLsb' 10 1 ++ 0b11000#5 ++ 0b11#2

/-- Format U (R305). -/
def uType (imm : BitVec 20) (rd : RegIdx) (op5 : BitVec 5) : BitVec 32 :=
  imm ++ rd ++ op5 ++ 0b11#2

/-- Format J; `offset` holds bits 20:1 of the immediate (R305). -/
def jType (offset : BitVec 20) (rd : RegIdx) : BitVec 32 :=
  offset.extractLsb' 19 1 ++ offset.extractLsb' 0 10 ++ offset.extractLsb' 10 1 ++ offset.extractLsb' 11 8 ++ rd
    ++ 0b11011#5 ++ 0b11#2

/-- The AMO variant of format R (R305). -/
def amoType (f5 : BitVec 5) (aq rl : Bool) (rs2 rs1 : RegIdx) (f3 : BitVec 3) (rd : RegIdx) : BitVec 32 :=
  f5 ++ BitVec.ofBool aq ++ BitVec.ofBool rl ++ rs2 ++ rs1 ++ f3 ++ rd ++ 0b01011#5 ++ 0b11#2

/-- Format CI with a 6-bit immediate in inst[12], inst[6:2] (R321). -/
def ciType (f3 : BitVec 3) (imm : BitVec 6) (rd : RegIdx) (op : BitVec 2) : BitVec 16 :=
  f3 ++ imm.extractLsb' 5 1 ++ rd ++ imm.extractLsb' 0 5 ++ op

/-- Formats CL and CS of the word forms, uimm[6:2] (R321, R322). -/
def clwType (f3 : BitVec 3) (uimm : BitVec 5) (hi lo : CRegIdx) : BitVec 16 :=
  f3 ++ uimm.extractLsb' 1 3 ++ hi ++ uimm.extractLsb' 0 1 ++ uimm.extractLsb' 4 1 ++ lo ++ 0b00#2

/-- Formats CL and CS of the doubleword forms, uimm[7:3] (R321, R322). -/
def cldType (f3 : BitVec 3) (uimm : BitVec 5) (hi lo : CRegIdx) : BitVec 16 :=
  f3 ++ uimm.extractLsb' 0 3 ++ hi ++ uimm.extractLsb' 3 2 ++ lo ++ 0b00#2

/-- Format CA (R321). -/
def caType (f6 : BitVec 6) (rd : CRegIdx) (f2 : BitVec 2) (rs2 : CRegIdx) : BitVec 16 :=
  f6 ++ rd ++ f2 ++ rs2 ++ 0b01#2

/-- Format CB of the shifts and C.ANDI: inst[11:10] tells them apart (R326). -/
def cbAluType (imm : BitVec 6) (f2 : BitVec 2) (rd : CRegIdx) : BitVec 16 :=
  0b100#3 ++ imm.extractLsb' 5 1 ++ f2 ++ rd ++ imm.extractLsb' 0 5 ++ 0b01#2

/-- Format CJ, offset[11:1] (R321, R322). -/
def cjType (f3 : BitVec 3) (offset : BitVec 11) : BitVec 16 :=
  f3 ++ offset.extractLsb' 10 1 ++ offset.extractLsb' 3 1 ++ offset.extractLsb' 7 2 ++ offset.extractLsb' 9 1
    ++ offset.extractLsb' 5 1 ++ offset.extractLsb' 6 1 ++ offset.extractLsb' 0 3 ++ offset.extractLsb' 4 1 ++ 0b01#2

/-- Format CB of the branches, offset[8:1] (R321, R322). -/
def cbType (f3 : BitVec 3) (offset : BitVec 8) (rs1 : CRegIdx) : BitVec 16 :=
  f3 ++ offset.extractLsb' 7 1 ++ offset.extractLsb' 2 2 ++ rs1 ++ offset.extractLsb' 5 2 ++ offset.extractLsb' 0 2
    ++ offset.extractLsb' 4 1 ++ 0b01#2

/-- Format CIW of C.ADDI4SPN, nzuimm[9:2] (R321, R322). -/
def ciwType (nzuimm : BitVec 8) (rd : CRegIdx) : BitVec 16 :=
  0b000#3 ++ nzuimm.extractLsb' 2 2 ++ nzuimm.extractLsb' 4 4 ++ nzuimm.extractLsb' 0 1 ++ nzuimm.extractLsb' 1 1
    ++ rd ++ 0b00#2

/-- Format CI of C.ADDI16SP, nzimm[9:4] (R321, R322). -/
def ci16spType (nzimm : BitVec 6) : BitVec 16 :=
  0b011#3 ++ nzimm.extractLsb' 5 1 ++ 0b00010#5 ++ nzimm.extractLsb' 0 1 ++ nzimm.extractLsb' 2 1
    ++ nzimm.extractLsb' 3 2 ++ nzimm.extractLsb' 1 1 ++ 0b01#2

/-- Format CI of C.LWSP, uimm[7:2] (R321, R322). -/
def clwspType (uimm : BitVec 6) (rd : RegIdx) : BitVec 16 :=
  0b010#3 ++ uimm.extractLsb' 3 1 ++ rd ++ uimm.extractLsb' 0 3 ++ uimm.extractLsb' 4 2 ++ 0b10#2

/-- Format CI of C.LDSP, uimm[8:3] (R321, R322). -/
def cldspType (uimm : BitVec 6) (rd : RegIdx) : BitVec 16 :=
  0b011#3 ++ uimm.extractLsb' 2 1 ++ rd ++ uimm.extractLsb' 0 2 ++ uimm.extractLsb' 3 3 ++ 0b10#2

/-- Format CSS of C.SWSP, uimm[7:2] (R321, R322). -/
def cswspType (uimm : BitVec 6) (rs2 : RegIdx) : BitVec 16 :=
  0b110#3 ++ uimm.extractLsb' 0 4 ++ uimm.extractLsb' 4 2 ++ rs2 ++ 0b10#2

/-- Format CSS of C.SDSP, uimm[8:3] (R321, R322). -/
def csdspType (uimm : BitVec 6) (rs2 : RegIdx) : BitVec 16 :=
  0b111#3 ++ uimm.extractLsb' 0 3 ++ uimm.extractLsb' 3 3 ++ rs2 ++ 0b10#2

/-- Format CR (R321). -/
def crType (f4 : BitVec 4) (rd rs2 : RegIdx) : BitVec 16 :=
  f4 ++ rd ++ rs2 ++ 0b10#2

/-- The words of an instruction, from the encoding rows of the spec (opcode_table.json, R305, R306, R321, R322). -/
def encode (i : Instr) : Raw :=
  match i with
  | .lui rd imm => .full (uType imm rd 0b01101#5)
  | .auipc rd imm => .full (uType imm rd 0b00101#5)
  | .addi rd rs1 imm => .full (iType imm rs1 0b000#3 rd 0b00100#5)
  | .slti rd rs1 imm => .full (iType imm rs1 0b010#3 rd 0b00100#5)
  | .sltiu rd rs1 imm => .full (iType imm rs1 0b011#3 rd 0b00100#5)
  | .xori rd rs1 imm => .full (iType imm rs1 0b100#3 rd 0b00100#5)
  | .ori rd rs1 imm => .full (iType imm rs1 0b110#3 rd 0b00100#5)
  | .andi rd rs1 imm => .full (iType imm rs1 0b111#3 rd 0b00100#5)
  | .slli rd rs1 sh => .full (iType (0b000000#6 ++ sh) rs1 0b001#3 rd 0b00100#5)
  | .srli rd rs1 sh => .full (iType (0b000000#6 ++ sh) rs1 0b101#3 rd 0b00100#5)
  | .srai rd rs1 sh => .full (iType (0b010000#6 ++ sh) rs1 0b101#3 rd 0b00100#5)
  | .add rd rs1 rs2 => .full (rType 0b0000000#7 rs2 rs1 0b000#3 rd 0b01100#5)
  | .sub rd rs1 rs2 => .full (rType 0b0100000#7 rs2 rs1 0b000#3 rd 0b01100#5)
  | .sll rd rs1 rs2 => .full (rType 0b0000000#7 rs2 rs1 0b001#3 rd 0b01100#5)
  | .slt rd rs1 rs2 => .full (rType 0b0000000#7 rs2 rs1 0b010#3 rd 0b01100#5)
  | .sltu rd rs1 rs2 => .full (rType 0b0000000#7 rs2 rs1 0b011#3 rd 0b01100#5)
  | .xor rd rs1 rs2 => .full (rType 0b0000000#7 rs2 rs1 0b100#3 rd 0b01100#5)
  | .srl rd rs1 rs2 => .full (rType 0b0000000#7 rs2 rs1 0b101#3 rd 0b01100#5)
  | .sra rd rs1 rs2 => .full (rType 0b0100000#7 rs2 rs1 0b101#3 rd 0b01100#5)
  | .or rd rs1 rs2 => .full (rType 0b0000000#7 rs2 rs1 0b110#3 rd 0b01100#5)
  | .and rd rs1 rs2 => .full (rType 0b0000000#7 rs2 rs1 0b111#3 rd 0b01100#5)
  | .addiw rd rs1 imm => .full (iType imm rs1 0b000#3 rd 0b00110#5)
  | .slliw rd rs1 sh => .full (rType 0b0000000#7 sh rs1 0b001#3 rd 0b00110#5)
  | .srliw rd rs1 sh => .full (rType 0b0000000#7 sh rs1 0b101#3 rd 0b00110#5)
  | .sraiw rd rs1 sh => .full (rType 0b0100000#7 sh rs1 0b101#3 rd 0b00110#5)
  | .addw rd rs1 rs2 => .full (rType 0b0000000#7 rs2 rs1 0b000#3 rd 0b01110#5)
  | .subw rd rs1 rs2 => .full (rType 0b0100000#7 rs2 rs1 0b000#3 rd 0b01110#5)
  | .sllw rd rs1 rs2 => .full (rType 0b0000000#7 rs2 rs1 0b001#3 rd 0b01110#5)
  | .srlw rd rs1 rs2 => .full (rType 0b0000000#7 rs2 rs1 0b101#3 rd 0b01110#5)
  | .sraw rd rs1 rs2 => .full (rType 0b0100000#7 rs2 rs1 0b101#3 rd 0b01110#5)
  | .jal rd offset => .full (jType offset rd)
  | .jalr rd rs1 imm => .full (iType imm rs1 0b000#3 rd 0b11001#5)
  | .beq rs1 rs2 offset => .full (bType offset rs2 rs1 0b000#3)
  | .bne rs1 rs2 offset => .full (bType offset rs2 rs1 0b001#3)
  | .blt rs1 rs2 offset => .full (bType offset rs2 rs1 0b100#3)
  | .bge rs1 rs2 offset => .full (bType offset rs2 rs1 0b101#3)
  | .bltu rs1 rs2 offset => .full (bType offset rs2 rs1 0b110#3)
  | .bgeu rs1 rs2 offset => .full (bType offset rs2 rs1 0b111#3)
  | .lb rd rs1 imm => .full (iType imm rs1 0b000#3 rd 0b00000#5)
  | .lh rd rs1 imm => .full (iType imm rs1 0b001#3 rd 0b00000#5)
  | .lw rd rs1 imm => .full (iType imm rs1 0b010#3 rd 0b00000#5)
  | .ld rd rs1 imm => .full (iType imm rs1 0b011#3 rd 0b00000#5)
  | .lbu rd rs1 imm => .full (iType imm rs1 0b100#3 rd 0b00000#5)
  | .lhu rd rs1 imm => .full (iType imm rs1 0b101#3 rd 0b00000#5)
  | .lwu rd rs1 imm => .full (iType imm rs1 0b110#3 rd 0b00000#5)
  | .sb rs1 rs2 imm => .full (sType imm rs2 rs1 0b000#3 0b01000#5)
  | .sh rs1 rs2 imm => .full (sType imm rs2 rs1 0b001#3 0b01000#5)
  | .sw rs1 rs2 imm => .full (sType imm rs2 rs1 0b010#3 0b01000#5)
  | .sd rs1 rs2 imm => .full (sType imm rs2 rs1 0b011#3 0b01000#5)
  | .fence fm pred succ rs1 rd => .full (iType (fm ++ pred ++ succ) rs1 0b000#3 rd 0b00011#5)
  | .fenceI imm rs1 rd => .full (iType imm rs1 0b001#3 rd 0b00011#5)
  | .mul rd rs1 rs2 => .full (rType 0b0000001#7 rs2 rs1 0b000#3 rd 0b01100#5)
  | .mulh rd rs1 rs2 => .full (rType 0b0000001#7 rs2 rs1 0b001#3 rd 0b01100#5)
  | .mulhsu rd rs1 rs2 => .full (rType 0b0000001#7 rs2 rs1 0b010#3 rd 0b01100#5)
  | .mulhu rd rs1 rs2 => .full (rType 0b0000001#7 rs2 rs1 0b011#3 rd 0b01100#5)
  | .div rd rs1 rs2 => .full (rType 0b0000001#7 rs2 rs1 0b100#3 rd 0b01100#5)
  | .divu rd rs1 rs2 => .full (rType 0b0000001#7 rs2 rs1 0b101#3 rd 0b01100#5)
  | .rem rd rs1 rs2 => .full (rType 0b0000001#7 rs2 rs1 0b110#3 rd 0b01100#5)
  | .remu rd rs1 rs2 => .full (rType 0b0000001#7 rs2 rs1 0b111#3 rd 0b01100#5)
  | .mulw rd rs1 rs2 => .full (rType 0b0000001#7 rs2 rs1 0b000#3 rd 0b01110#5)
  | .divw rd rs1 rs2 => .full (rType 0b0000001#7 rs2 rs1 0b100#3 rd 0b01110#5)
  | .divuw rd rs1 rs2 => .full (rType 0b0000001#7 rs2 rs1 0b101#3 rd 0b01110#5)
  | .remw rd rs1 rs2 => .full (rType 0b0000001#7 rs2 rs1 0b110#3 rd 0b01110#5)
  | .remuw rd rs1 rs2 => .full (rType 0b0000001#7 rs2 rs1 0b111#3 rd 0b01110#5)
  | .lrW rd rs1 aq rl => .full (amoType 0b00010#5 aq rl 0 rs1 0b010#3 rd)
  | .scW rd rs1 rs2 aq rl => .full (amoType 0b00011#5 aq rl rs2 rs1 0b010#3 rd)
  | .lrD rd rs1 aq rl => .full (amoType 0b00010#5 aq rl 0 rs1 0b011#3 rd)
  | .scD rd rs1 rs2 aq rl => .full (amoType 0b00011#5 aq rl rs2 rs1 0b011#3 rd)
  | .amoswapW rd rs1 rs2 aq rl => .full (amoType 0b00001#5 aq rl rs2 rs1 0b010#3 rd)
  | .amoaddW rd rs1 rs2 aq rl => .full (amoType 0b00000#5 aq rl rs2 rs1 0b010#3 rd)
  | .amoxorW rd rs1 rs2 aq rl => .full (amoType 0b00100#5 aq rl rs2 rs1 0b010#3 rd)
  | .amoandW rd rs1 rs2 aq rl => .full (amoType 0b01100#5 aq rl rs2 rs1 0b010#3 rd)
  | .amoorW rd rs1 rs2 aq rl => .full (amoType 0b01000#5 aq rl rs2 rs1 0b010#3 rd)
  | .amominW rd rs1 rs2 aq rl => .full (amoType 0b10000#5 aq rl rs2 rs1 0b010#3 rd)
  | .amomaxW rd rs1 rs2 aq rl => .full (amoType 0b10100#5 aq rl rs2 rs1 0b010#3 rd)
  | .amominuW rd rs1 rs2 aq rl => .full (amoType 0b11000#5 aq rl rs2 rs1 0b010#3 rd)
  | .amomaxuW rd rs1 rs2 aq rl => .full (amoType 0b11100#5 aq rl rs2 rs1 0b010#3 rd)
  | .amoswapD rd rs1 rs2 aq rl => .full (amoType 0b00001#5 aq rl rs2 rs1 0b011#3 rd)
  | .amoaddD rd rs1 rs2 aq rl => .full (amoType 0b00000#5 aq rl rs2 rs1 0b011#3 rd)
  | .amoxorD rd rs1 rs2 aq rl => .full (amoType 0b00100#5 aq rl rs2 rs1 0b011#3 rd)
  | .amoandD rd rs1 rs2 aq rl => .full (amoType 0b01100#5 aq rl rs2 rs1 0b011#3 rd)
  | .amoorD rd rs1 rs2 aq rl => .full (amoType 0b01000#5 aq rl rs2 rs1 0b011#3 rd)
  | .amominD rd rs1 rs2 aq rl => .full (amoType 0b10000#5 aq rl rs2 rs1 0b011#3 rd)
  | .amomaxD rd rs1 rs2 aq rl => .full (amoType 0b10100#5 aq rl rs2 rs1 0b011#3 rd)
  | .amominuD rd rs1 rs2 aq rl => .full (amoType 0b11000#5 aq rl rs2 rs1 0b011#3 rd)
  | .amomaxuD rd rs1 rs2 aq rl => .full (amoType 0b11100#5 aq rl rs2 rs1 0b011#3 rd)
  | .csrrw rd rs1 csr => .full (iType csr rs1 0b001#3 rd 0b11100#5)
  | .csrrs rd rs1 csr => .full (iType csr rs1 0b010#3 rd 0b11100#5)
  | .csrrc rd rs1 csr => .full (iType csr rs1 0b011#3 rd 0b11100#5)
  | .csrrwi rd uimm csr => .full (iType csr uimm 0b101#3 rd 0b11100#5)
  | .csrrsi rd uimm csr => .full (iType csr uimm 0b110#3 rd 0b11100#5)
  | .csrrci rd uimm csr => .full (iType csr uimm 0b111#3 rd 0b11100#5)
  | .ecall => .full 0x00000073#32
  | .ebreak => .full 0x00100073#32
  | .mret => .full 0x30200073#32
  | .sret => .full 0x10200073#32
  | .wfi => .full 0x10500073#32
  | .sfenceVma rs1 rs2 => .full (rType 0b0001001#7 rs2 rs1 0b000#3 0 0b11100#5)
  | .cAddi4spn rd nzuimm => .half (ciwType nzuimm rd)
  | .cLw rd rs1 uimm => .half (clwType 0b010#3 uimm rs1 rd)
  | .cLd rd rs1 uimm => .half (cldType 0b011#3 uimm rs1 rd)
  | .cSw rs1 rs2 uimm => .half (clwType 0b110#3 uimm rs1 rs2)
  | .cSd rs1 rs2 uimm => .half (cldType 0b111#3 uimm rs1 rs2)
  | .cNop imm => .half (ciType 0b000#3 imm 0 0b01#2)
  | .cAddi rd imm => .half (ciType 0b000#3 imm rd 0b01#2)
  | .cJal offset => .half (cjType 0b001#3 offset)
  | .cAddiw rd imm => .half (ciType 0b001#3 imm rd 0b01#2)
  | .cLi rd imm => .half (ciType 0b010#3 imm rd 0b01#2)
  | .cAddi16sp nzimm => .half (ci16spType nzimm)
  | .cLui rd nzimm => .half (ciType 0b011#3 nzimm rd 0b01#2)
  | .cSrli rd sh => .half (cbAluType sh 0b00#2 rd)
  | .cSrai rd sh => .half (cbAluType sh 0b01#2 rd)
  | .cAndi rd imm => .half (cbAluType imm 0b10#2 rd)
  | .cSub rd rs2 => .half (caType 0b100011#6 rd 0b00#2 rs2)
  | .cXor rd rs2 => .half (caType 0b100011#6 rd 0b01#2 rs2)
  | .cOr rd rs2 => .half (caType 0b100011#6 rd 0b10#2 rs2)
  | .cAnd rd rs2 => .half (caType 0b100011#6 rd 0b11#2 rs2)
  | .cSubw rd rs2 => .half (caType 0b100111#6 rd 0b00#2 rs2)
  | .cAddw rd rs2 => .half (caType 0b100111#6 rd 0b01#2 rs2)
  | .cJ offset => .half (cjType 0b101#3 offset)
  | .cBeqz rs1 offset => .half (cbType 0b110#3 offset rs1)
  | .cBnez rs1 offset => .half (cbType 0b111#3 offset rs1)
  | .cSlli rd sh => .half (ciType 0b000#3 sh rd 0b10#2)
  | .cLwsp rd uimm => .half (clwspType uimm rd)
  | .cLdsp rd uimm => .half (cldspType uimm rd)
  | .cJr rs1 => .half (crType 0b1000#4 rs1 0)
  | .cMv rd rs2 => .half (crType 0b1000#4 rd rs2)
  | .cEbreak => .half 0x9002#16
  | .cJalr rs1 => .half (crType 0b1001#4 rs1 0)
  | .cAdd rd rs2 => .half (crType 0b1001#4 rd rs2)
  | .cSwsp rs2 uimm => .half (cswspType uimm rs2)
  | .cSdsp rs2 uimm => .half (csdspType uimm rs2)

/-- The instruction's bits, as an IllegalInstruction it raises reports them (R330, R663, R902; DEDUCED, safe: log 20). -/
def Instr.bits (i : Instr) : Word := (encode i).bits

/-- The instruction's length in bytes. -/
def Instr.len (i : Instr) : Nat := (encode i).len

/-! ### The host's view of the decoder -/

/-- The `n` bytes of `w`, lowest first (R201). -/
def bytesOf (w : Nat) : Nat → List Byte
  | 0 => []
  | n + 1 => BitVec.ofNat 8 w :: bytesOf (w / 256) n

/-- The four bytes of an instruction of `nbits` bits, every bit above `nbits` being 0. -/
def tableBytes (nbits w : Nat) : List Byte := bytesOf (w % 2 ^ nbits) 4

/-- The instruction that the decoder of the hart with XLEN `x` reads from those bytes. -/
def decodeTableAt (x : Xlen) (nbits w : Nat) : Option Instr :=
  match decodeBytes x (tableBytes nbits w) with
  | .ok (i, _) => some i
  | .error _ => none

/-- The XLEN a table word is read with: 64, or 32 where the word is an instruction with XLEN = 32 only
(DESIGN CHOICE, safe: log 18). -/
def tableXlen (nbits w : Nat) : Xlen :=
  if (decodeTableAt .rv64 nbits w).isNone && (decodeTableAt .rv32 nbits w).isSome then .rv32 else .rv64

/-- The instruction the decoder reads from a table row's word (log 18). -/
def decodeTableWord (nbits w : Nat) : Option Instr :=
  decodeTableAt (tableXlen nbits w) nbits w

end Sys2Proof
end

