-- ==== Sys2Proof/Machine/Bits.lean ====
section
/-! DEFINITION. Width, sign-extension and bit-field helpers (R30, R31). -/

namespace Sys2Proof

/-- XLEN as a number (R2). -/
def Xlen.bits : Xlen → Nat
  | .rv32 => 32
  | .rv64 => 64

/-- `trunc_XLEN`: the value modulo 2^XLEN (R31). -/
def Xlen.trunc (x : Xlen) (v : Word) : Word :=
  match x with
  | .rv32 => (v.setWidth 32).setWidth 64
  | .rv64 => v

/-- `sext_N` of an N-bit value to XLEN bits (R31). -/
def Xlen.sext (x : Xlen) {n : Nat} (v : BitVec n) : Word := x.trunc (v.signExtend 64)

/-- `zext_N` of an N-bit value, N at most XLEN (R31). -/
def zext {n : Nat} (v : BitVec n) : Word := v.setWidth 64

/-- `trunc_N` of a word (R31). -/
def low (n : Nat) (v : Word) : BitVec n := v.setWidth n

/-- A two-operand function on bit vectors of every width. -/
abbrev BinOp := (n : Nat) → BitVec n → BitVec n → BitVec n

/-- Compute a function at width XLEN (R31: arithmetic is modulo 2^XLEN). -/
def Xlen.lift (x : Xlen) (f : BinOp) (a b : Word) : Word :=
  match x with
  | .rv32 => (f 32 (a.setWidth 32) (b.setWidth 32)).setWidth 64
  | .rv64 => f 64 a b

/-- `u(v)`, the unsigned reading (R31). -/
def Xlen.u (x : Xlen) (v : Word) : Nat :=
  match x with
  | .rv32 => (v.setWidth 32).toNat
  | .rv64 => v.toNat

/-- `s(v)`, the two's-complement reading at width XLEN (R31). -/
def Xlen.s (x : Xlen) (v : Word) : Int :=
  match x with
  | .rv32 => (v.setWidth 32).toInt
  | .rv64 => v.toInt

/-- `v` with bit `i` set to `b`. -/
def setBit {n : Nat} (v : BitVec n) (i : Nat) (b : Bool) : BitVec n :=
  if b then v ||| (BitVec.ofNat n 1 <<< i) else v &&& ~~~(BitVec.ofNat n 1 <<< i)

/-- `v` with the field of width `w` at bit `lo` replaced by `f`. -/
def setField (v : Word) (lo : Nat) {w : Nat} (f : BitVec w) : Word :=
  (v &&& ~~~((BitVec.allOnes w).setWidth 64 <<< lo)) ||| (f.setWidth 64 <<< lo)

/-- The field of width `w` at bit `lo`, as a number. -/
def field (v : Word) (lo w : Nat) : Nat := (v.extractLsb' lo w).toNat

end Sys2Proof
end

