-- ==== Sys2Proof/Machine/Flags.lean ====
section
/-! DEFINITION. The hart has no condition codes, status flags or predicate registers (R104). What other hardware computes as
flags are here the comparisons that decide a branch (R453-R458) or write a register (R403, R404, R414, R415), and the
choices of the minimum and maximum AMOs (R619-R622, R628-R631). -/

namespace Sys2Proof

/-- Equal (R453). -/
def Cond.eq (x : Xlen) (a b : Word) : Bool := x.trunc a == x.trunc b
/-- Signed less than (R455). -/
def Cond.lt (x : Xlen) (a b : Word) : Bool := x.s a < x.s b
/-- Unsigned less than (R457). -/
def Cond.ltu (x : Xlen) (a b : Word) : Bool := x.u a < x.u b

/-- The register value of a comparison: 1 or 0 (R403). -/
def boolWord (b : Bool) : Word := if b then 1 else 0

/-- The signed minimum: `(s(old) < s(b)) ? old : b` (R619). -/
def minSigned {n : Nat} (old b : BitVec n) : BitVec n := if old.toInt < b.toInt then old else b
/-- The signed maximum: `(s(old) > s(b)) ? old : b` (R620). -/
def maxSigned {n : Nat} (old b : BitVec n) : BitVec n := if old.toInt > b.toInt then old else b
/-- The unsigned minimum (R621). -/
def minUnsigned {n : Nat} (old b : BitVec n) : BitVec n := if old.toNat < b.toNat then old else b
/-- The unsigned maximum (R622). -/
def maxUnsigned {n : Nat} (old b : BitVec n) : BitVec n := if old.toNat > b.toNat then old else b

end Sys2Proof
end

