-- ==== Sys2Proof/Machine/Operands.lean ====
section
/-! DEFINITION. Operand forms: immediates and offsets (R306, R322), compressed register names (R321), shift amounts (R431),
and the arithmetic of the computational instructions at every width (40_integer.md, 43_muldiv.md, 44_atomic.md). -/

namespace Sys2Proof

/-- The U immediate: `sext_32({imm20, 12'b0})` (R306). -/
def immU (x : Xlen) (imm : BitVec 20) : Word := x.sext (imm ++ 0#12)

/-- A branch or jump offset from the bits above its bit 0 (R306, R322). -/
def offsetOf (x : Xlen) {n : Nat} (offset : BitVec n) : Word := x.sext (offset ++ 0#1)

/-- C.LUI's value: `sext_18(nzimm[17:12] << 12)` (R762). -/
def immCLui (x : Xlen) (nzimm : BitVec 6) : Word := x.sext (nzimm ++ 0#12)

/-- C.ADDI16SP's immediate: `sext_10(nzimm)`, scaled by 16 (R761). -/
def imm16sp (x : Xlen) (nzimm : BitVec 6) : Word := x.sext (nzimm ++ 0#4)

/-- An unsigned immediate scaled by 4 (R751, R752, R776, R783). -/
def uimm4 {n : Nat} (u : BitVec n) : Word := zext (u ++ 0#2)

/-- An unsigned immediate scaled by 8 (R753, R777, R784). -/
def uimm8 {n : Nat} (u : BitVec n) : Word := zext (u ++ 0#3)

/-- `x'(f)` names register x(8 + f) (R750). -/
def creg (f : CRegIdx) : RegIdx := 8 + f.setWidth 5

/-- The stack pointer, x2, of the compressed forms (R102). -/
def sp : RegIdx := 2

/-- The link register, x1, of C.JAL and C.JALR (R102). -/
def ra : RegIdx := 1

/-! ### Arithmetic on bit vectors of width n (n = 32 or 64) -/

/-- Sum modulo 2^n (R411). -/
def Alu.add : BinOp := fun _ a b => a + b
/-- Difference modulo 2^n (R412). -/
def Alu.sub : BinOp := fun _ a b => a - b
/-- Bitwise exclusive or (R416). -/
def Alu.xor : BinOp := fun _ a b => a ^^^ b
/-- Bitwise or (R419). -/
def Alu.or : BinOp := fun _ a b => a ||| b
/-- Bitwise and (R420). -/
def Alu.and : BinOp := fun _ a b => a &&& b
/-- Shift left; only the low 5 bits (n = 32) or 6 bits (n = 64) of the amount count (R413, R431). -/
def Alu.sll : BinOp := fun n a b => a <<< (b.toNat % n)
/-- Shift right, logical (R417, R431). -/
def Alu.srl : BinOp := fun n a b => a >>> (b.toNat % n)
/-- Shift right, arithmetic (R418, R431). -/
def Alu.sra : BinOp := fun n a b => a.sshiftRight (b.toNat % n)

/-- The low half of the product (R551). -/
def Alu.mul : BinOp := fun n a b => BitVec.ofNat n (a.toNat * b.toNat)
/-- The high half of signed × signed, shifted with floor (R552). -/
def Alu.mulh : BinOp := fun n a b => BitVec.ofInt n ((a.toInt * b.toInt) / 2 ^ n)
/-- The high half of signed × unsigned (R553). -/
def Alu.mulhsu : BinOp := fun n a b => BitVec.ofInt n ((a.toInt * (b.toNat : Int)) / 2 ^ n)
/-- The high half of unsigned × unsigned (R554). -/
def Alu.mulhu : BinOp := fun n a b => BitVec.ofNat n ((a.toNat * b.toNat) / 2 ^ n)
/-- Signed division: −1 by zero, MIN on overflow, else truncated toward zero (R555). -/
def Alu.div : BinOp := fun n a b =>
  if b = 0 then BitVec.allOnes n
  else if a = BitVec.intMin n ∧ b = BitVec.allOnes n then BitVec.intMin n
  else BitVec.ofInt n (a.toInt.tdiv b.toInt)
/-- Unsigned division: all ones by zero (R556). -/
def Alu.divu : BinOp := fun n a b =>
  if b = 0 then BitVec.allOnes n else BitVec.ofNat n (a.toNat / b.toNat)
/-- Signed remainder: the dividend by zero, 0 on overflow (R557). -/
def Alu.rem : BinOp := fun n a b =>
  if b = 0 then a
  else if a = BitVec.intMin n ∧ b = BitVec.allOnes n then 0
  else BitVec.ofInt n (a.toInt - b.toInt * a.toInt.tdiv b.toInt)
/-- Unsigned remainder: the dividend by zero (R558). -/
def Alu.remu : BinOp := fun n a b =>
  if b = 0 then a else BitVec.ofNat n (a.toNat % b.toNat)

/-- The new memory value of an atomic that swaps (R614). -/
def Alu.second : BinOp := fun _ _ b => b
/-- AMOMIN's choice (R619). -/
def Alu.min : BinOp := fun _ a b => minSigned a b
/-- AMOMAX's choice (R620). -/
def Alu.max : BinOp := fun _ a b => maxSigned a b
/-- AMOMINU's choice (R621). -/
def Alu.minu : BinOp := fun _ a b => minUnsigned a b
/-- AMOMAXU's choice (R622). -/
def Alu.maxu : BinOp := fun _ a b => maxUnsigned a b

/-- A W form: compute on the low 32 bits, write `sext_32` of the 32-bit result (R432, R564). -/
def wForm (f : BinOp) (a b : Word) : Word := (f 32 (low 32 a) (low 32 b)).signExtend 64

end Sys2Proof
end

