-- ==== Sys2Proof/Config.lean ====
section
/-! DEFINITION. What an implementation fixes before a run (R15, R20), and the free values of the behaviours the spec
leaves open (93_implementation_defined.md). A configuration is plain data; no step changes it. -/

/-- The access types of a memory access (R206). -/
inductive Sys2Proof.Machine.Access where
  | read
  | write
  | exec
deriving DecidableEq, Repr

namespace Sys2Proof

/-- Whether a completed store clears the reservation: parameter `RESV_CLEARED_BY_STORE` (R602). -/
inductive ResvPolicy where
  | never
  | always
  | either
deriving DecidableEq, Repr

/-- What acts on the trap port: parameter `TRAP_UNIT` (R911). -/
inductive TrapUnit where
  | external
  | reference
deriving DecidableEq, Repr

/-- How the TLB hashes a page number: parameter `TLB_HASH` (R20, R235). -/
inductive TlbHash where
  | directMapped
  | additiveAssociative
deriving DecidableEq, Repr

/-- The hart's interrupt-pending bit that a PLIC context's line drives (R109: a context is mapped to bit 9 or to bit 11).
DEDUCED, safe: log 15. -/
inductive ExtLine where
  | seip
  | meip
deriving DecidableEq, Repr

/-- A range of physical addresses, `base` to `last` inclusive. -/
structure Span where
  base : Nat
  last : Nat
deriving DecidableEq, Repr

/-- An external device region `{base, end_inclusive, handler, device_data}` (R12). `handler` and `deviceData` only name the
device: what it answers is an oracle's (R208; log 13). -/
structure Region extends Span where
  handler : Nat
  deviceData : Nat
deriving DecidableEq, Repr

/-- A request at port P2 (R12, R208): the region, the offset from its base, the size, the access type and the bytes to write,
little-endian (0 for a request that writes none). -/
structure DeviceRequest where
  region : Region
  offset : Nat
  size : Nat
  access : Machine.Access
  data : Word
deriving DecidableEq, Repr

/-- The behaviour bound to an entry of the CSR bank (R122). -/
inductive CsrPolicy where
  /-- Generic read-write (R659). -/
  | rw
  /-- Generic read-only (R660). -/
  | ro
  /-- Illegal (R662). -/
  | ill
  /-- A masked view of the entry (bank, id) (R664). -/
  | view (bank : BitVec 2) (id : Byte) (rmask wmask : Word)
  /-- A masked view of the interrupt-pending word (R666). -/
  | ip (rmask wmask : Word)
  /-- Address translation and protection (R667, R668). -/
  | satp
deriving DecidableEq, Repr

/-- One entry of parameter `CSR_CONFIG` (R20, R120): where it is, its diagnostic name (R124), its policy and its default value. -/
structure CsrSpec where
  bank : BitVec 2
  id : Byte
  name : String
  policy : CsrPolicy
  dflt : Word
deriving DecidableEq, Repr

/-- The parameters of R20. `PAGING_MODES` is fixed by `xlen`; `FAIRNESS` (R1031) is about liveness only (log 24). A parameter
that is a map from a key is a list of entries; where two entries have one key the first counts (DESIGN CHOICE: log 27). -/
structure Config where
  /-- `XLEN`. -/
  xlen : Xlen
  /-- `RAM_BASE`. -/
  ramBase : Nat
  /-- `RAM_SIZE`. -/
  ramSize : Nat
  /-- `RESET_PC`. -/
  resetPc : Word
  /-- `INIT_X`: the initial values of the general registers; the entry of x0 is not used. -/
  initX : Vector Word 32
  /-- `TLB_SIZE`: no observable effect (R235; log 9). -/
  tlbSize : Nat
  /-- `TLB_HASH`: no observable effect (R235; log 9). -/
  tlbHash : TlbHash
  /-- `AD_UPDATE` (R228). -/
  adUpdate : Bool
  /-- `RESV_CLEARED_BY_STORE` (R602). -/
  resvPolicy : ResvPolicy
  /-- `PLIC_BASE`. -/
  plicBase : Nat
  /-- `PLIC_SIZE`. -/
  plicSize : Nat
  /-- `PLIC_NSOURCES`: ids 0..N-1, of which 1..N-1 are usable. -/
  plicSources : Nat
  /-- `PLIC_NCONTEXTS`. -/
  plicContexts : Nat
  /-- `PLIC_CTX_LINE`: which interrupt-pending bit a context's line drives (R963); a context not listed drives nothing. -/
  plicCtxLine : List (Nat × ExtLine)
  /-- `PLIC_PRIORITY_WRITABLE` (R956). -/
  plicPrioWritable : Bool
  /-- `PLIC_PRIO_INIT`: initial priorities by source; a source not listed starts at 0. -/
  plicPrioInit : List (Nat × BitVec 32)
  /-- `CSR_CONFIG` (R130). -/
  csrConfig : List CsrSpec
  /-- `TRAP_UNIT` (R911). -/
  trapUnit : TrapUnit
  /-- `MMIO_DEVICES` (R12). -/
  mmio : List Region
deriving DecidableEq, Repr

/-! ### Free values

Each is a constant with no body, applied to the counter `State.free`, which is advanced at every use: nothing can be
proved about the values it takes (log 7). -/

/-- Whether a sub-access that has a matching TLB entry uses it, where hit and walk differ (R233, R237; log 8). -/
opaque Config.freeTlbHit : Nat → Bool

/-- Whether a completed store clears the reservation under `RESV_CLEARED_BY_STORE` = either (R602; log 10). -/
opaque Config.freeStoreClears : Nat → Bool

/-- The reservation after an SC whose write faults (R605; log 11). -/
opaque Config.freeResvAfterFault : Nat → Bool

/-- Bit 0 of an enable word 0 of the PLIC, as stored and as read (R955, R960; log 12). -/
opaque Config.freeEnableBit0 : Nat → Bool

/-- Whether an external device answers a request with success (R208; log 13). -/
opaque Config.freeDeviceSuccess : Nat → DeviceRequest → Bool

/-- The bytes an external device answers a read with (R208; log 13). -/
opaque Config.freeDeviceData : Nat → DeviceRequest → Word

end Sys2Proof
end

