-- ==== Sys2Proof/Machine/Params.lean ====
section
/-! DEFINITION. Which configurations are well formed (R20, R21), the reference `CSR_CONFIG` (R130) and the reference
configuration (R20). -/

namespace Sys2Proof

/-- Keys of the CSR bank: bank × 256 + id (R120, R121). -/
def csrKey (bank : BitVec 2) (id : Byte) : Nat := bank.toNat * 256 + id.toNat

/-- The key of a configured entry. -/
def CsrSpec.key (e : CsrSpec) : Nat := csrKey e.bank e.id

/-- The bytes of the access lie inside RAM (R206). -/
def Config.inRam (c : Config) (p n : Nat) : Bool := c.ramBase ≤ p && p + n ≤ c.ramBase + c.ramSize

/-- The bytes of the access lie inside the PLIC window (R206). -/
def Config.inPlic (c : Config) (p n : Nat) : Bool := c.plicBase ≤ p && p + n ≤ c.plicBase + c.plicSize

/-- The external region that holds the bytes of the access (R206). -/
def Config.regionOf (c : Config) (p n : Nat) : Option Region :=
  c.mmio.find? fun r => r.base ≤ p && p + n ≤ r.last + 1

/-- Two address ranges, each first and last byte, have no byte in common. -/
def Span.disjoint (a b : Span) : Bool := a.last < b.base || b.last < a.base

/-- Every two ranges of the list are disjoint. -/
def Span.allDisjoint : List Span → Bool
  | [] => true
  | r :: rs => rs.all (Span.disjoint r) && Span.allDisjoint rs

/-- RAM, the PLIC window and every external region (R21). -/
def Config.regions (c : Config) : List Span :=
  ⟨c.ramBase, c.ramBase + c.ramSize - 1⟩ :: ⟨c.plicBase, c.plicBase + c.plicSize - 1⟩ :: c.mmio.map Region.toSpan

/-- A well-formed configuration (R21), with the value ranges of R20. By decision D9 the PLIC and every external region are
page-aligned too, which is read as R20 reads it of `RAM_BASE`, of the first address (DEDUCED: log 2). An external region whose
base lies above its last address is refused, and no region is refused for lying above the physical address space of R203; the spec
leaves both open (DESIGN CHOICE: log 2). -/
def Config.wf (c : Config) : Bool :=
  c.ramBase % 4096 == 0 &&
  (c.ramSize % 4096 == 0 &&
  (0 < c.ramSize &&
  (c.plicBase % 4096 == 0 &&
  (2 ≤ c.plicSources &&
  (c.plicSources ≤ 1024 &&
  (1 ≤ c.plicContexts &&
  (c.plicContexts ≤ 15872 &&
  (0x200000 + 0x1000 * c.plicContexts ≤ c.plicSize &&
  (0x2000 + 0x80 * c.plicContexts ≤ 0x200000 &&
  (0 < c.tlbSize &&
  (c.mmio.all (fun r => r.base ≤ r.last && r.base % 4096 == 0) &&
  Span.allDisjoint c.regions)))))))))))

/-- `SSTATUS_MASK`: SIE, SPIE, SPP, SUM, MXR, and UXL when XLEN = 64 (R130). -/
def sstatusMask : Xlen → Word
  | .rv32 => 0x000C0122
  | .rv64 => 0x00000003000C0122

/-- The default of mstatus (R130). -/
def mstatusDefault : Xlen → Word
  | .rv32 => 0
  | .rv64 => 0x0000000A00000000

/-- The value of misa (R130). -/
def misaValue : Xlen → Word
  | .rv32 => 0x40141105
  | .rv64 => 0x8000000000141105

/-- The S-mode bank of the reference `CSR_CONFIG` (R130). -/
def referenceBank1 (x : Xlen) : List CsrSpec :=
  [⟨1, 0x00, "sstatus", .view 3 0x00 (sstatusMask x) (sstatusMask x), 0⟩,
   ⟨1, 0x04, "sie", .view 3 0x04 0x222 0x222, 0⟩,
   ⟨1, 0x05, "stvec", .rw, 0⟩,
   ⟨1, 0x06, "scounteren", .rw, 0⟩,
   ⟨1, 0x40, "sscratch", .rw, 0⟩,
   ⟨1, 0x41, "sepc", .rw, 0⟩,
   ⟨1, 0x42, "scause", .rw, 0⟩,
   ⟨1, 0x43, "stval", .rw, 0⟩,
   ⟨1, 0x44, "sip", .ip 0x222 0x002, 0⟩,
   ⟨1, 0x80, "satp", .satp, 0⟩]

/-- The M-mode bank of the reference `CSR_CONFIG` (R130). -/
def referenceBank3 (x : Xlen) : List CsrSpec :=
  [⟨3, 0x00, "mstatus", .rw, mstatusDefault x⟩,
   ⟨3, 0x01, "misa", .ro, misaValue x⟩,
   ⟨3, 0x02, "medeleg", .rw, 0⟩,
   ⟨3, 0x03, "mideleg", .rw, 0⟩,
   ⟨3, 0x04, "mie", .rw, 0⟩,
   ⟨3, 0x05, "mtvec", .rw, 0⟩,
   ⟨3, 0x06, "mcounteren", .rw, 0⟩,
   ⟨3, 0x11, "mvendorid", .ro, 0⟩,
   ⟨3, 0x12, "marchid", .ro, 0⟩,
   ⟨3, 0x13, "mimpid", .ro, 0⟩,
   ⟨3, 0x14, "mhartid", .ro, 0⟩,
   ⟨3, 0x40, "mscratch", .rw, 0⟩,
   ⟨3, 0x41, "mepc", .rw, 0⟩,
   ⟨3, 0x42, "mcause", .rw, 0⟩,
   ⟨3, 0x43, "mtval", .rw, 0⟩,
   ⟨3, 0x44, "mip", .ip (BitVec.allOnes 64) 0x222, 0⟩]

/-- The reference `CSR_CONFIG` (R130); banks 0 and 2 have no entries. -/
def referenceCsrs (x : Xlen) : List CsrSpec := referenceBank1 x ++ referenceBank3 x

/-- The reference configuration: the defaults of R20. `RAM_SIZE`, `TRAP_UNIT`, `INIT_X` and `XLEN` are OPEN there; the values
here are the model's (DESIGN CHOICE, unsafe: log 3, log 4). -/
def Config.reference (x : Xlen) : Config where
  xlen := x
  ramBase := 0x80000000
  ramSize := 0x10000000
  resetPc := 0x80000000
  initX := Vector.replicate 32 0
  tlbSize := 256
  tlbHash := .directMapped
  adUpdate := true
  resvPolicy := .either
  plicBase := 0x0C000000
  plicSize := 0x04000000
  plicSources := 32
  plicContexts := 2
  plicCtxLine := [(0, .meip), (1, .seip)]
  plicPrioWritable := true
  plicPrioInit := []
  csrConfig := referenceCsrs x
  trapUnit := .reference
  mmio := []

end Sys2Proof
end

