-- ==== Sys2Proof/Machine/Table.lean ====
section
/-! DEFINITION. Sparse tables: lists of (key, value) pairs with keys strictly rising, in which no entry holds the value an
unlisted key reads as. RAM (R200), the values of the CSR bank (R120) and the PLIC's arrays (R951) are such tables. -/

namespace Sys2Proof

/-- The value at key `k`; an unlisted key reads `d`. -/
def Table.get {α : Type} (d : α) : List (Nat × α) → Nat → α
  | [], _ => d
  | (j, v) :: t, k => if j = k then v else Table.get d t k

/-- Put an entry in its place by key; `k` is not listed. -/
def Table.insert {α : Type} : List (Nat × α) → Nat → α → List (Nat × α)
  | [], k, v => [(k, v)]
  | (j, w) :: t, k, v => if k < j then (k, v) :: (j, w) :: t else (j, w) :: Table.insert t k v

/-- Take out every entry with key `k`. -/
def Table.erase {α : Type} : List (Nat × α) → Nat → List (Nat × α)
  | [], _ => []
  | (j, w) :: t, k => if j = k then Table.erase t k else (j, w) :: Table.erase t k

/-- Set the value at key `k`; setting the value an unlisted key reads as takes the entry out. -/
def Table.set {α : Type} [DecidableEq α] (d : α) (t : List (Nat × α)) (k : Nat) (v : α) : List (Nat × α) :=
  if v = d then Table.erase t k else Table.insert (Table.erase t k) k v

/-- The canonical form: keys strictly rising, no entry equal to `d`. -/
def Table.wf {α : Type} [DecidableEq α] (d : α) : List (Nat × α) → Bool
  | [] => true
  | [(_, v)] => v != d
  | (j, v) :: (k, w) :: t => v != d && decide (j < k) && Table.wf d ((k, w) :: t)

/-! ### RAM -/

/-- RAM: the listed bytes by physical address (R200, R203). -/
abbrev Memory := List Host.Cell

/-- What a byte of RAM that nothing has written reads as (DESIGN CHOICE, unsafe: log 5). -/
def Memory.unlisted : Byte := 0

/-- The byte at physical address `p`. -/
def Memory.read (m : Memory) (p : Nat) : Byte := Table.get Memory.unlisted m p

/-- Write one byte. -/
def Memory.write (m : Memory) (p : Nat) (b : Byte) : Memory := Table.set Memory.unlisted m p b

/-- The canonical form of RAM. -/
def Memory.wf (m : Memory) : Bool := Table.wf Memory.unlisted m

/-- The `n`-byte little-endian value at `p` (R201). -/
def Memory.readLE (m : Memory) (p : Nat) : Nat → Word
  | 0 => 0
  | n + 1 => (Memory.read m p).setWidth 64 ||| (Memory.readLE m (p + 1) n <<< 8)

/-- Write the low `n` bytes of `v` at `p`, little-endian (R201). -/
def Memory.writeLE (m : Memory) (p : Nat) : Nat → Word → Memory
  | 0, _ => m
  | n + 1, v => Memory.writeLE (Memory.write m p (v.setWidth 8)) (p + 1) n (v >>> 8)

/-- A launch image as RAM: the bytes of `cells` that lie in `[base, base + size)` (R140, R1000). A byte of the image outside RAM is
dropped and the image not refused, which the spec leaves open (DESIGN CHOICE: log 31). -/
def Memory.ofImage (base size : Nat) (cells : List Host.Cell) : Memory :=
  cells.foldl (fun m c => if base ≤ c.1 && c.1 < base + size then Memory.write m c.1 c.2 else m) []

end Sys2Proof
end

