-- ==== Sys2Proof/Machine/State.lean ====
section
/-! DEFINITION. The state of the block (10_state.md), as plain data, its reset value (R140), and the reasons a step can
stop. -/

namespace Sys2Proof.Machine

/-- The hart's privilege levels, coded U = 0, S = 1, M = 3 (R36, R105). -/
inductive Priv where
  | user
  | supervisor
  | machine
deriving DecidableEq, Repr

/-- The causes of faults (R901). -/
inductive Cause where
  /-- Fetch at an odd pc, cause 0. -/
  | instMisaligned
  /-- AccessFault of the access type, causes 1, 5 and 7. -/
  | accessFault (acc : Access)
  /-- IllegalInstruction, cause 2. -/
  | illegalInstruction
  /-- Breakpoint, cause 3. -/
  | breakpoint
  /-- LoadAddressMisaligned, cause 4: a misaligned LR. -/
  | loadMisaligned
  /-- StoreAddressMisaligned, cause 6: a misaligned SC or AMO. -/
  | storeMisaligned
  /-- EnvironmentCall, causes 8, 9 and 11. -/
  | ecall (from_ : Priv)
  /-- PageFault of the access type, causes 12, 13 and 15. -/
  | pageFault (acc : Access)
deriving DecidableEq, Repr

/-- The level an xRET returns from (R106). -/
inductive XretLevel where
  | m
  | s
deriving DecidableEq, Repr

/-- The hart's run state (R106). -/
inductive RunState where
  | running
  | faulted (cause : Cause) (tval : Word)
  | xret (level : XretLevel)
deriving DecidableEq, Repr

/-- satp's MODE, decoded (R107). -/
inductive PtMode where
  | bare
  | sv32
  | sv39
  | sv48
deriving DecidableEq, Repr

/-- The paging flag (R108). -/
inductive Paging where
  | bare
  | virtual
deriving DecidableEq, Repr

/-- What a TLB entry is found by (R230). `vpn` is the virtual address shifted right by 12. -/
structure TlbTag where
  vpn : Nat
  priv : Priv
  sum : Bool
  mxr : Bool
deriving DecidableEq, Repr

/-- One TLB entry (R230): its tag, its rights and the physical page number. -/
structure TlbEntry where
  tag : TlbTag
  r : Bool
  w : Bool
  x : Bool
  ppage : Nat
deriving DecidableEq, Repr

/-- The PLIC's state (R951). Bit `s` of a bitmap is source `s`; tables are keyed by source or by context. -/
structure Plic where
  /-- `prio[s]`; an unlisted source has priority 0. -/
  prio : List (Nat × BitVec 32)
  /-- `pending[s]`. -/
  pending : BitVec 1024
  /-- `enable[c][s]`. -/
  enable : List (Nat × BitVec 1024)
  /-- `threshold[c]`. -/
  threshold : List (Nat × BitVec 32)
  /-- `claim[c]`, the claimed id, 0 for none. -/
  claim : List (Nat × Nat)
  /-- `line[c]`. -/
  line : List (Nat × Bool)
deriving DecidableEq, Repr

/-- One step of an external trap unit (R911): the CSR values it writes in order, then the privilege and the pc it writes. -/
structure TrapMove where
  csrs : List ((BitVec 2 × Byte) × Word)
  priv : Option Priv
  pc : Option Word
deriving DecidableEq, Repr

/-- Which agent moves next, and its move (R10; log 6). -/
inductive Turn where
  /-- The hart (R300). -/
  | hart
  /-- An interrupt source calls `plic_raise` (R962). -/
  | raiseSource (source : Nat)
  /-- The platform drives the machine-software input, `ip` bit 3 (R942). -/
  | platformSoftware (level : Bool)
  /-- The platform drives the machine-timer input, `ip` bit 7 (R942). -/
  | platformTimer (level : Bool)
  /-- The TLB loses the entry with this tag (R236). -/
  | dropTlb (tag : TlbTag)
  /-- The external trap unit acts (R911). -/
  | trapUnit (move : TrapMove)
deriving DecidableEq, Repr

/-- The sources that device callbacks raise inside one event, a PLIC register access or a request to an external device: before
its effect and after it (R965, R1021; log 26). -/
structure Callbacks where
  before : List Nat
  after : List Nat
deriving DecidableEq, Repr

/-- The state of the block: the hart record (R100), the machine-global state (R110, R111, R200), the configuration, which no
step changes (R15), the requests made at port P2 (R12), and the model's own `turns` (log 6), `callbacks` (log 26) and `free`
(log 7). -/
structure State where
  cfg : Config
  /-- `x[0..31]` (R101); x0's slot is never read. -/
  regs : Vector Word 32
  pc : Word
  priv : Priv
  runState : RunState
  ptMode : PtMode
  /-- The root page table's physical address (R107). -/
  root : Nat
  paging : Paging
  /-- The interrupt-pending word (R109). -/
  ip : Word
  /-- The values of the CSR bank, keyed by `csrKey`; an unlisted entry holds 0 (R120, R125). -/
  csr : List (Nat × Word)
  tlb : List TlbEntry
  /-- The reservation flag (R110). -/
  resv : Bool
  plic : Plic
  /-- RAM by physical address (R200). -/
  mem : Memory
  /-- The agents' moves to come; where it is empty the hart moves (log 6). -/
  turns : List Turn
  /-- What device callbacks raise inside the device events to come, one entry for each event; where it is empty they raise nothing
  (log 26). -/
  callbacks : List Callbacks
  /-- The requests made at port P2 so far, latest first (R12, R208; log 13). -/
  requests : List DeviceRequest
  /-- How many free values have been drawn (log 7). -/
  free : Nat
deriving DecidableEq, Repr

/-- Why the machine stops with a fault. -/
inductive Fault where
  /-- Raised by `step` when the hart is faulted or in the xret state and no agent is left to move: the hart "takes no step"
  (R106, R910), and the model makes no further transition. Safe: log 14. -/
  | hartHalted
deriving DecidableEq, Repr

/-- Why a step has no meaning. -/
inductive Refusal where
  /-- An instruction without a meaning; no arm of `exec` answers it. Safe. -/
  | notModelled (mnemonic : String)
  /-- Raised by `step` when the configuration is not well formed: "A model refuses any other configuration" (R21). Safe:
  log 2. -/
  | illFormedConfig
deriving DecidableEq, Repr

/-- The PLIC after reset: nothing pending, enabled or claimed, every threshold 0 and every line low; the priorities of
`PLIC_PRIO_INIT`, with prio[0] = 0 (R140, R951, R1005); of two for one source the first, and none for an id that is no source
(DESIGN CHOICE: log 27). -/
def Plic.reset (c : Config) : Plic where
  prio := c.plicPrioInit.reverse.foldl
    (fun t e => if 1 ≤ e.1 && e.1 < c.plicSources then Table.set 0 t e.1 e.2 else t) []
  pending := 0
  enable := []
  threshold := []
  claim := []
  line := []

/-- The values of the CSR bank after reset: the defaults of `CSR_CONFIG` (R140); of two for one entry the first (DESIGN CHOICE:
log 27). -/
def csrDefaults (c : Config) : List (Nat × Word) :=
  c.csrConfig.reverse.foldl (fun t e => Table.set 0 t e.key (c.xlen.trunc e.dflt)) []

/-- The machine right after reset, configured as `c` with the launch image `image` in RAM (R140, R1000-R1005). pt_mode and root are
Bare and 0 as R140's table has them, also where `CSR_CONFIG` gives satp another default than 0 (DESIGN CHOICE: log 30). -/
def State.resetOf (c : Config) (image : List Host.Cell) : State where
  cfg := c
  regs := (c.initX.map c.xlen.trunc).set 0 0
  pc := c.xlen.trunc c.resetPc
  priv := .machine
  runState := .running
  ptMode := .bare
  root := 0
  paging := .bare
  ip := 0
  csr := csrDefaults c
  tlb := []
  resv := false
  plic := Plic.reset c
  mem := Memory.ofImage c.ramBase c.ramSize image
  turns := []
  callbacks := []
  requests := []
  free := 0

/-- The machine right after reset in the reference configuration with XLEN = 64, no image loaded (R140; log 3, 4, 5, 22). -/
def State.reset : State := State.resetOf (Config.reference .rv64) []

end Sys2Proof.Machine
end

