-- ==== Sys2Proof/Machine/Ops.lean ====
section
/-! DEFINITION. The named operations over the state: registers and pc (R32, R35), CSR values, the paging flag (R108), taking
an exception and an interrupt (R910, R921-R923), the return from one (R930-R932), free values (log 7). -/

namespace Sys2Proof.Machine

/-- What an instruction answers. -/
abbrev Out := Host.Outcome State Fault Refusal

/-- What an operation answers that can raise: a value and the state, or the cause and tval of the fault and the state with
the effects committed before it (R34, R913). -/
inductive Res (α : Type) where
  | ok (a : α) (s : State)
  | trap (c : Cause) (tval : Word) (s : State)

/-- Go on with the value and the state, unless the operation raised. -/
def Res.bind {α β : Type} (r : Res α) (k : α → State → Res β) : Res β :=
  match r with
  | .ok a s => k a s
  | .trap c t s => .trap c t s

/-! ### Registers and pc -/

/-- `x[i]`; `x[0]` is always 0 (R32, R101). -/
def State.x (s : State) (r : RegIdx) : Word :=
  if r = 0 then 0 else s.regs[r.toNat]'(r.isLt)

/-- `x[i] <- v`, XLEN bits; a write to `x[0]` is discarded (R32, R101). -/
def State.setX (s : State) (r : RegIdx) (v : Word) : State :=
  if r = 0 then s else { s with regs := s.regs.set r.toNat (s.cfg.xlen.trunc v) r.isLt }

/-- The pc `n` bytes on, modulo 2^XLEN (R103, R302). -/
def State.pcPlus (s : State) (n : Nat) : Word := s.cfg.xlen.trunc (s.pc + BitVec.ofNat 64 n)

/-- `pc <- v` (R35). -/
def State.setPc (s : State) (v : Word) : State := { s with pc := s.cfg.xlen.trunc v }

/-- The pc's advance by the instruction's length (R302). -/
def State.advance (s : State) (len : Nat) : State := s.setPc (s.pcPlus len)

/-- One more free value is drawn (log 7). -/
def State.tick (s : State) : State := { s with free := s.free + 1 }

/-! ### CSR values -/

/-- The value of entry `key` of the CSR bank (R120). -/
def State.csrAt (s : State) (key : Nat) : Word := Table.get 0 s.csr key

/-- Write the value of entry `key`, XLEN bits, past its policy. -/
def State.setCsr (s : State) (key : Nat) (v : Word) : State :=
  { s with csr := Table.set 0 s.csr key (s.cfg.xlen.trunc v) }

/-- Keys of the entries the block and the reference trap unit read or write (R130, R131). -/
def kMstatus : Nat := csrKey 3 0x00
def kMedeleg : Nat := csrKey 3 0x02
def kMideleg : Nat := csrKey 3 0x03
def kMie : Nat := csrKey 3 0x04
def kMtvec : Nat := csrKey 3 0x05
def kMepc : Nat := csrKey 3 0x41
def kMcause : Nat := csrKey 3 0x42
def kMtval : Nat := csrKey 3 0x43
def kStvec : Nat := csrKey 1 0x05
def kSepc : Nat := csrKey 1 0x41
def kScause : Nat := csrKey 1 0x42
def kStval : Nat := csrKey 1 0x43
def kSatp : Nat := csrKey 1 0x80

/-- Bits of mstatus (R131). -/
def bSie : Nat := 1
def bMie : Nat := 3
def bSpie : Nat := 5
def bMpie : Nat := 7
def bSpp : Nat := 8
def bMpp : Nat := 11
def bSum : Nat := 18
def bMxr : Nat := 19

/-- One bit of mstatus. -/
def State.mstatusBit (s : State) (i : Nat) : Bool := (s.csrAt kMstatus).getLsbD i

/-- SUM (R226, R230). -/
def State.sum (s : State) : Bool := s.mstatusBit bSum

/-- MXR (R225, R230). -/
def State.mxr (s : State) : Bool := s.mstatusBit bMxr

/-! ### Privilege and the paging flag -/

/-- The privilege code: U = 0, S = 1, M = 3 (R36). -/
def Priv.code : Priv → Nat
  | .user => 0
  | .supervisor => 1
  | .machine => 3

/-- The mode a 2-bit code names; 2 names none (R36). -/
def Priv.ofCode (c : Nat) : Option Priv :=
  match c with
  | 0 => some .user
  | 1 => some .supervisor
  | 3 => some .machine
  | _ => none

/-- What the paging flag is for a privilege and a mode (R108). -/
def pagingOf (p : Priv) (m : PtMode) : Paging :=
  if p ≠ .machine ∧ m ≠ .bare then .virtual else .bare

/-- Recompute the paging flag; the TLB is flushed whole when it changes (R108, R238). -/
def State.recomputePaging (s : State) : State :=
  let p := pagingOf s.priv s.ptMode
  { s with paging := p, tlb := if p = s.paging then s.tlb else [] }

/-- Change the privilege level; the paging flag follows (R105, R108). -/
def State.setPriv (s : State) (p : Priv) : State := { s with priv := p }.recomputePaging

/-! ### Taking an exception and returning from one -/

/-- AccessFault's and PageFault's offset by access type. -/
def Cause.code : Cause → Nat
  | .instMisaligned => 0
  | .accessFault .exec => 1
  | .illegalInstruction => 2
  | .breakpoint => 3
  | .loadMisaligned => 4
  | .accessFault .read => 5
  | .storeMisaligned => 6
  | .accessFault .write => 7
  | .ecall .user => 8
  | .ecall .supervisor => 9
  | .ecall .machine => 11
  | .pageFault .exec => 12
  | .pageFault .read => 13
  | .pageFault .write => 15

/-- The pc a trap goes to: the base, or base + 4 × i for interrupt `i` when MODE = 1; MODE 2 and 3 are direct (R921-R923). -/
def trapTarget (tvec : Word) (interrupt : Option Nat) : Word :=
  let base := tvec &&& ~~~3#64
  match interrupt with
  | some i => if tvec.extractLsb' 0 2 = 1#2 then base + BitVec.ofNat 64 (4 * i) else base
  | none => base

/-- Trap entry to M (R921, R922). -/
def enterM (causeVal tval : Word) (interrupt : Option Nat) (s : State) : State :=
  let ms := s.csrAt kMstatus
  let ms := setBit ms bMpie (ms.getLsbD bMie)
  let ms := setBit ms bMie false
  let ms := setField ms bMpp (BitVec.ofNat 2 s.priv.code)
  (((((s.setCsr kMepc s.pc).setCsr kMcause causeVal).setCsr kMtval tval).setCsr kMstatus ms).setPriv .machine).setPc
    (trapTarget (s.csrAt kMtvec) interrupt)

/-- Trap entry to S (R921, R922). -/
def enterS (causeVal tval : Word) (interrupt : Option Nat) (s : State) : State :=
  let ms := s.csrAt kMstatus
  let ms := setBit ms bSpie (ms.getLsbD bSie)
  let ms := setBit ms bSie false
  let ms := setBit ms bSpp (s.priv = .supervisor)
  (((((s.setCsr kSepc s.pc).setCsr kScause causeVal).setCsr kStval tval).setCsr kMstatus ms).setPriv .supervisor).setPc
    (trapTarget (s.csrAt kStvec) interrupt)

/-- The reference trap unit's exception entry (R921). -/
def takeException (c : Cause) (tval : Word) (s : State) : State :=
  let cv := BitVec.ofNat 64 c.code
  let t :=
    if s.priv ≠ .machine ∧ (s.csrAt kMedeleg).getLsbD c.code = true then enterS cv tval none s else enterM cv tval none s
  { t with runState := .running }

/-- The reference trap unit's interrupt entry, for interrupt number `i` (R922). -/
def takeInterrupt (i : Nat) (s : State) : State :=
  let cv := (1#64 <<< (s.cfg.xlen.bits - 1)) ||| BitVec.ofNat 64 i
  let t :=
    if s.priv ≠ .machine ∧ (s.csrAt kMideleg).getLsbD i = true then enterS cv 0 (some i) s else enterM cv 0 (some i) s
  { t with runState := .running }

/-- `raise E(tval)`: the fault report at the trap port, on which the reference trap unit acts in the same step (R34, R910,
R911). -/
def raise (c : Cause) (tval : Word) (s : State) : State :=
  match s.cfg.trapUnit with
  | .external => { s with runState := .faulted c tval }
  | .reference => takeException c tval s

/-- The reference trap unit's MRET; MPP = 2 is treated as an illegal instruction (R931). -/
def returnM (s : State) : State :=
  let ms := s.csrAt kMstatus
  match Priv.ofCode (field ms bMpp 2) with
  | none => takeException .illegalInstruction 0x30200073 s
  | some p =>
    let ms := setBit ms bMie (ms.getLsbD bMpie)
    let ms := setBit ms bMpie true
    let ms := setField ms bMpp 0#2
    let t := ((s.setCsr kMstatus ms).setPriv p).setPc (s.csrAt kMepc &&& ~~~1#64)
    { t with runState := .running }

/-- The reference trap unit's SRET (R932). -/
def returnS (s : State) : State :=
  let ms := s.csrAt kMstatus
  let p := if ms.getLsbD bSpp then Priv.supervisor else Priv.user
  let ms := setBit ms bSie (ms.getLsbD bSpie)
  let ms := setBit ms bSpie true
  let ms := setBit ms bSpp false
  let t := ((s.setCsr kMstatus ms).setPriv p).setPc (s.csrAt kSepc &&& ~~~1#64)
  { t with runState := .running }

/-- The xRET request at the trap port, which the reference trap unit completes in the same step (R702, R703, R930). -/
def requestXret (l : XretLevel) (s : State) : State :=
  match s.cfg.trapUnit, l with
  | .external, l => { s with runState := .xret l }
  | .reference, .m => returnM s
  | .reference, .s => returnS s

/-! ### Ends of an instruction -/

/-- The instruction raises. -/
def fail (c : Cause) (tval : Word) (s : State) : Out := .next (raise c tval s)

/-- `raise IllegalInstruction(tval = inst)` for the instruction `i` (R330, R663). -/
def illegal (i : Instr) (s : State) : Out := fail .illegalInstruction i.bits s

/-- The instruction goes on after an operation that can raise. -/
def Res.finish {α : Type} (r : Res α) (k : α → State → Out) : Out :=
  match r with
  | .ok a s => k a s
  | .trap c t s => fail c t s

/-- An instruction that is not one of this hart (its XLEN column, a reserved operand) raises IllegalInstruction (R340, R345;
the decoder never answers one: log 19). -/
def whenLegal (i : Instr) (s : State) (k : State → Out) : Out :=
  if i.wf s.cfg.xlen then k s else illegal i s

/-- Complete with `x[rd] <- v` and the pc's advance. -/
def writeBack (rd : RegIdx) (v : Word) (len : Nat) (s : State) : Out := .next ((s.setX rd v).advance len)

/-- Complete with the pc's advance alone. -/
def noEffect (len : Nat) (s : State) : Out := .next (s.advance len)

/-- A taken control transfer with a link: `t <- pc + len; pc <- target; x[rd] <- t` (R450-R452). -/
def jumpLink (rd : RegIdx) (target : Word) (len : Nat) (s : State) : Out :=
  .next ((s.setX rd (s.pcPlus len)).setPc target)

/-- A conditional branch (R450). -/
def branchIf (taken : Bool) (offset : Word) (len : Nat) (s : State) : Out :=
  .next (if taken then s.setPc (s.pc + offset) else s.advance len)

/-- After a completed store instruction or AMO the reservation follows `RESV_CLEARED_BY_STORE` (R602; log 10). -/
def storeDone (s : State) : State :=
  match s.cfg.resvPolicy with
  | .never => s
  | .always => { s with resv := false }
  | .either => { s with resv := s.resv && !Config.freeStoreClears s.free, free := s.free + 1 }

end Sys2Proof.Machine
end

