-- ==== Sys2Proof/Machine/Plic.lean ====
section
/-! DEFINITION. The PLIC (60_exceptions.md R950-R965): selection, raises, the claim and complete protocol, the register
window, and the lines to the hart. -/

namespace Sys2Proof.Machine

/-! ### Reading the PLIC's state -/

/-- `prio[s]`; `prio[0]` is always 0 (R951). -/
def Plic.prioOf (p : Plic) (s : Nat) : BitVec 32 := if s = 0 then 0 else Table.get 0 p.prio s

/-- `pending[s]` (R951). -/
def Plic.isPending (p : Plic) (s : Nat) : Bool := p.pending.getLsbD s

/-- The enable bits of context `c` (R951). -/
def Plic.enables (p : Plic) (c : Nat) : BitVec 1024 := Table.get 0 p.enable c

/-- `threshold[c]` (R951). -/
def Plic.thresholdOf (p : Plic) (c : Nat) : BitVec 32 := Table.get 0 p.threshold c

/-- `claim[c]` (R951). -/
def Plic.claimOf (p : Plic) (c : Nat) : Nat := Table.get 0 p.claim c

/-- `line[c]` (R951). -/
def Plic.lineOf (p : Plic) (c : Nat) : Bool := Table.get false p.line c

/-! ### Selection -/

/-- Valid for delivery: `s ≠ 0 ∧ enable[c][s] = 1 ∧ prio[s] > threshold[c]`, unsigned (R953). -/
def Plic.valid (p : Plic) (c s : Nat) : Bool :=
  s ≠ 0 && (p.enables c).getLsbD s && (p.thresholdOf c).toNat < (p.prioOf s).toNat

/-- Candidate `s` replaces `best`: strictly higher priority, or equal priority and a lower id (R954). -/
def Plic.beats (p : Plic) (s best : Nat) : Bool :=
  best = 0 || (p.prioOf best).toNat < (p.prioOf s).toNat || (p.prioOf s = p.prioOf best && s < best)

/-- One turn of the selection loop (R954). -/
def Plic.consider (p : Plic) (c best s : Nat) : Nat :=
  if p.isPending s && p.valid c s && p.beats s best then s else best

/-- What `Select(c, keep)` chooses among `n` source ids; source 0 is never valid (R954). -/
def Plic.choice (p : Plic) (n c : Nat) (keep : Bool) : Nat :=
  (List.range n).foldl (p.consider c) (if keep then p.claimOf c else 0)

/-- `Select(c, keep)`: claim[c] becomes the choice (R954). -/
def Plic.select (p : Plic) (n c : Nat) (keep : Bool) : Plic :=
  { p with claim := Table.set 0 p.claim c (p.choice n c keep) }

/-- `Select(c, keep)` on the machine. -/
def plicSelect (c : Nat) (keep : Bool) (s : State) : State :=
  { s with plic := s.plic.select s.cfg.plicSources c keep }

/-! ### Lines to the hart -/

/-- The interrupt-pending bit of an external-interrupt line (R109). -/
def lineBit : ExtLine → Nat
  | .seip => 9
  | .meip => 11

/-- The line that `PLIC_CTX_LINE` maps context `c` to (R963). -/
def ctxLine (cfg : Config) (c : Nat) : Option ExtLine :=
  (cfg.plicCtxLine.find? fun e => e.1 == c).map Prod.snd

/-- `line[c] <- level`, and the hart's ip bit with it (R963). -/
def setLine (c : Nat) (level : Bool) (s : State) : State :=
  { s with
    plic := { s.plic with line := Table.set false s.plic.line c level }
    ip := match ctxLine s.cfg c with
      | some l => setBit s.ip (lineBit l) level
      | none => s.ip }

/-! ### Raise -/

/-- What a raise does for one context (R962). -/
def raiseContext (s : State) (c : Nat) : State :=
  let t := plicSelect c true s
  if t.plic.claimOf c = 0 then t else setLine c true t

/-- `pending[src] <- level`. -/
def setPending (src : Nat) (level : Bool) (s : State) : State :=
  { s with plic := { s.plic with pending := setBit s.plic.pending src level } }

/-- `plic_raise(src)`: none is failure, with no effect (R962). -/
def plicRaise (src : Nat) (s : State) : Option State :=
  if src = 0 ∨ s.cfg.plicSources ≤ src then none
  else some ((List.range s.cfg.plicContexts).foldl raiseContext (setPending src true s))

/-- An interrupt source calls `plic_raise`; a raise that fails changes nothing (R962). -/
def raiseSource (src : Nat) (s : State) : State := (plicRaise src s).getD s

/-- Device callbacks raise these sources, in order, by the unlocked raise, which has the effect of R962 (R965). -/
def raiseAll (l : List Nat) (s : State) : State := l.foldl (fun s src => raiseSource src s) s

/-- One device event with the effect `f`, a PLIC register access or a request to an external device, and the raises of the device
callbacks that run inside it, which belong to the same event (R1021; log 26). -/
def withCallbacks {α : Type} (f : State → α × State) (s : State) : α × State :=
  match s.callbacks with
  | [] => f s
  | c :: rest =>
    let r := f (raiseAll c.before { s with callbacks := rest })
    (r.1, raiseAll c.after r.2)

/-! ### The register window -/

/-- The registers of the window (R955): `pending` and `enable` words are numbered from 0. -/
inductive PlicReg where
  | priority (src : Nat)
  | pending (word : Nat)
  | enable (ctx word : Nat)
  | threshold (ctx : Nat)
  | claim (ctx : Nat)
deriving DecidableEq, Repr

/-- ⌈N/32⌉, the words of a bitmap (R955). -/
def plicWords (cfg : Config) : Nat := (cfg.plicSources + 31) / 32

/-- The register at an offset that is a multiple of 4 (R955). -/
def plicRegAt (cfg : Config) (off : Nat) : Option PlicReg :=
  if off < 4 * cfg.plicSources then some (.priority (off / 4))
  else if 0x1000 ≤ off ∧ off < 0x1000 + 4 * plicWords cfg then some (.pending ((off - 0x1000) / 4))
  else if 0x2000 ≤ off ∧ off < 0x200000 then
    let c := (off - 0x2000) / 0x80
    let w := (off - 0x2000) % 0x80 / 4
    if c < cfg.plicContexts ∧ w < plicWords cfg then some (.enable c w) else none
  else if 0x200000 ≤ off then
    let c := (off - 0x200000) / 0x1000
    let r := (off - 0x200000) % 0x1000
    if c < cfg.plicContexts then
      if r = 0 then some (.threshold c) else if r = 4 then some (.claim c) else none
    else none
  else none

/-- A priority write is rejected when `PLIC_PRIORITY_WRITABLE` is false (R956). -/
def plicAccepts (cfg : Config) (acc : Access) (r : PlicReg) : Bool :=
  match r, acc with
  | .priority _, .write => cfg.plicPrioWritable
  | _, _ => true

/-- The register that an access at `off` reaches, if none of R955 and R956 rejects it. -/
def plicTarget (cfg : Config) (acc : Access) (off : Nat) : Option PlicReg :=
  (plicRegAt cfg off).filter (plicAccepts cfg acc)

/-- The bits of ids below N. -/
def idMask (n : Nat) : BitVec 1024 := BitVec.ofNat 1024 (2 ^ n - 1)

/-- Word `w` of a bitmap, 0 for ids that do not exist (R955). -/
def bitmapWord (n : Nat) (v : BitVec 1024) (w : Nat) : BitVec 32 := (v &&& idMask n).extractLsb' (32 * w) 32

/-- A bitmap with word `w` written; bits for ids that do not exist are ignored (R960). -/
def setBitmapWord (n : Nat) (v : BitVec 1024) (w : Nat) (data : BitVec 32) : BitVec 1024 :=
  let m := ((BitVec.allOnes 32).setWidth 1024 <<< (32 * w)) &&& idMask n
  (v &&& ~~~m) ||| ((data.setWidth 1024 <<< (32 * w)) &&& m)

/-- Claim read of context `c` (R958). -/
def claimRead (c : Nat) (s : State) : BitVec 32 × State :=
  let t := if s.plic.claimOf c = 0 || !s.plic.valid c (s.plic.claimOf c) then plicSelect c false s else s
  let id := t.plic.claimOf c
  (BitVec.ofNat 32 id, if id = 0 then t else setPending id false t)

/-- Complete write of context `c`: the value written is not checked (R959). -/
def completeWrite (c : Nat) (s : State) : State :=
  let t := plicSelect c false s
  setLine c (t.plic.claimOf c ≠ 0) t

/-- Reading a register. Bit 0 of an enable word 0 is unconstrained: a free value (R955; log 12). -/
def plicRead (r : PlicReg) (s : State) : BitVec 32 × State :=
  match r with
  | .priority src => (s.plic.prioOf src, s)
  | .pending w => (bitmapWord s.cfg.plicSources s.plic.pending w, s)
  | .enable c w =>
    let v := bitmapWord s.cfg.plicSources (s.plic.enables c) w
    if w = 0 then (setBit v 0 (Config.freeEnableBit0 s.free), s.tick) else (v, s)
  | .threshold c => (s.plic.thresholdOf c, s)
  | .claim c => claimRead c s

/-- `enable[c] <- v`. -/
def setEnables (c : Nat) (v : BitVec 1024) (s : State) : State :=
  { s with plic := { s.plic with enable := Table.set 0 s.plic.enable c v } }

/-- Writing a register. Whether the enable bit of id 0 is stored is unconstrained: a free value (R960; log 12). -/
def plicWrite (r : PlicReg) (data : BitVec 32) (s : State) : State :=
  match r with
  | .priority src =>
    if src = 0 then s else { s with plic := { s.plic with prio := Table.set 0 s.plic.prio src data } }
  | .pending _ => s
  | .enable c w =>
    let v := setBitmapWord s.cfg.plicSources (s.plic.enables c) w data
    if w = 0 then (setEnables c (setBit v 0 (Config.freeEnableBit0 s.free)) s).tick else setEnables c v s
  | .threshold c => { s with plic := { s.plic with threshold := Table.set 0 s.plic.threshold c data } }
  | .claim c => completeWrite c s

/-- The effect of one register access: the value read (0 for a write), and the state. -/
def plicRegEffect (acc : Access) (r : PlicReg) (data : BitVec 32) (s : State) : BitVec 32 × State :=
  match acc with
  | .write => (0, plicWrite r data s)
  | _ => plicRead r s

/-- One register access, with what device callbacks raise inside it (R1021). -/
def plicRegAccess (acc : Access) (r : PlicReg) (data : BitVec 32) (s : State) : BitVec 32 × State :=
  withCallbacks (plicRegEffect acc r data) s

/-- `PlicAccess(off, n, acc, data)`: none is a rejected access, with no effect (R955). -/
def plicAccess (off n : Nat) (acc : Access) (data : Word) (s : State) : Option Word × State :=
  if acc = .exec ∨ off % 4 ≠ 0 then (none, s)
  else if n = 4 then
    match plicTarget s.cfg acc off with
    | some r =>
      let a := plicRegAccess acc r (low 32 data) s
      (some (zext a.1), a.2)
    | none => (none, s)
  else if n = 8 then
    match plicTarget s.cfg acc off, plicTarget s.cfg acc (off + 4) with
    | some r, some q =>
      let a := plicRegAccess acc r (low 32 data) s
      let b := plicRegAccess acc q (low 32 (data >>> 32)) a.2
      (some (b.1 ++ a.1), b.2)
    | _, _ => (none, s)
  else (none, s)

end Sys2Proof.Machine
end

