-- ==== Sys2Proof/Machine/Mmu.lean ====
section
/-! DEFINITION. Memory access (20_memory.md): the physical router, the page-table walker, the TLB, and the virtual access
primitive `mem_op` with page splitting. -/

namespace Sys2Proof.Machine

/-! ### The physical router -/

/-- The low `n` bytes of a value. -/
def lowBytes (n : Nat) (v : Word) : Word := v &&& BitVec.ofNat 64 (2 ^ (8 * n) - 1)

/-- The request that an access of `n` bytes at `p` makes to the region `r`: the offset from its base, the size as it is, the access
type and, for a write, the bytes (R208, D55). -/
def deviceRequest (r : Region) (p n : Nat) (acc : Access) (data : Word) : DeviceRequest :=
  ⟨r, p - r.base, n, acc, if acc = .write then lowBytes n data else 0⟩

/-- The device's reply: any success value and, for a read, any bytes, as many as were asked for (R208; log 13). The request is
recorded. -/
def deviceReply (q : DeviceRequest) (s : State) : Option Word × State :=
  (if Config.freeDeviceSuccess s.free q then
      some (if q.access = .write then 0 else lowBytes q.size (Config.freeDeviceData s.free q))
    else none,
    { s with requests := q :: s.requests }.tick)

/-- A request to an external device, with what device callbacks raise inside it (R208, R1021). -/
def deviceAccess (q : DeviceRequest) (s : State) : Option Word × State := withCallbacks (deviceReply q) s

/-- `PhysAccess(p, n, acc, data)`: the bytes read (0 for a write), none where the access faults (R206, R207). -/
def physAccess (p n : Nat) (acc : Access) (data : Word) (s : State) : Option Word × State :=
  if s.cfg.inRam p n then
    match acc with
    | .write => (some 0, { s with mem := Memory.writeLE s.mem p n data })
    | _ => (some (Memory.readLE s.mem p n), s)
  else if s.cfg.inPlic p n then plicAccess (p - s.cfg.plicBase) n acc data s
  else
    match s.cfg.regionOf p n with
    | some r => deviceAccess (deviceRequest r p n acc data) s
    | none => (none, s)

/-! ### Page-table descriptors -/

/-- One level of a descriptor (R218): the virtual page number's place in the address, the physical page number's place in the
entry and in the physical address. -/
structure LevelDesc where
  vpnLo : Nat
  vpnWidth : Nat
  ppnLo : Nat
  ppnWidth : Nat
  paLo : Nat
deriving DecidableEq, Repr

/-- A descriptor (R218); the levels stand highest first. -/
structure PtDesc where
  levels : List LevelDesc
  pteSize : Nat
  vaWidth : Nat
deriving DecidableEq, Repr

/-- The descriptors of Sv32, Sv39 and Sv48 (R218); Bare has no levels and is never walked (R217). -/
def PtMode.desc : PtMode → PtDesc
  | .bare => ⟨[], 8, 64⟩
  | .sv32 => ⟨[⟨22, 10, 20, 12, 22⟩, ⟨12, 10, 10, 10, 12⟩], 4, 32⟩
  | .sv39 => ⟨[⟨30, 9, 28, 26, 30⟩, ⟨21, 9, 19, 9, 21⟩, ⟨12, 9, 10, 9, 12⟩], 8, 39⟩
  | .sv48 => ⟨[⟨39, 9, 37, 17, 39⟩, ⟨30, 9, 28, 9, 30⟩, ⟨21, 9, 19, 9, 21⟩, ⟨12, 9, 10, 9, 12⟩], 8, 48⟩

/-- `VPN(j, va)` (R218). -/
def LevelDesc.vpn (l : LevelDesc) (va : Word) : Nat := field va l.vpnLo l.vpnWidth

/-- `PPN_j(pte)` (R218). -/
def LevelDesc.ppn (l : LevelDesc) (pte : Word) : Nat := field pte l.ppnLo l.ppnWidth

/-- `PPN(pte)`: bits 31:10 of a 4-byte entry, 53:10 of an 8-byte entry (R218). -/
def PtDesc.ppn (d : PtDesc) (pte : Word) : Nat := if d.pteSize = 4 then field pte 10 22 else field pte 10 44

/-! ### Page-table entries (R219) -/

def pteV (pte : Word) : Bool := pte.getLsbD 0
def pteR (pte : Word) : Bool := pte.getLsbD 1
def pteW (pte : Word) : Bool := pte.getLsbD 2
def pteX (pte : Word) : Bool := pte.getLsbD 3
def pteU (pte : Word) : Bool := pte.getLsbD 4
def pteA (pte : Word) : Bool := pte.getLsbD 6
def pteD (pte : Word) : Bool := pte.getLsbD 7

/-- The entry is invalid: V = 0, W without R, or a reserved bit (R222). -/
def pteInvalid (d : PtDesc) (pte : Word) : Bool :=
  !pteV pte || (!pteR pte && pteW pte) || (d.pteSize = 8 && field pte 54 10 ≠ 0)

/-- The entry points to a table of the next level (R223). -/
def pteNonLeaf (pte : Word) : Bool := !pteR pte && !pteX pte

/-- The access part of `CheckLeaf` (R225). -/
def leafAllows (mxr : Bool) (acc : Access) (pte : Word) : Bool :=
  match acc with
  | .read => pteR pte || (mxr && pteX pte)
  | .write => pteW pte
  | .exec => pteX pte

/-- The privilege part of `CheckLeaf` (R226). -/
def leafAdmits (p : Priv) (sum : Bool) (acc : Access) (pte : Word) : Bool :=
  match p with
  | .user => pteU pte
  | .supervisor => !pteU pte || (sum && acc ≠ .exec)
  | .machine => true

/-- The entry that `UpdateAD` writes back, if any (R228). -/
def pteUpdated (cfg : Config) (acc : Access) (pte : Word) : Option Word :=
  if cfg.adUpdate && (!pteA pte || (acc = .write && !pteD pte)) then
    some (setBit (if acc = .write then setBit pte 7 true else pte) 6 true)
  else none

/-- `Assemble(va, pte, i)` for a leaf at level `l`: the fields below `l` come from the address (R229). -/
def assemble (d : PtDesc) (l : LevelDesc) (va pte : Word) : Nat :=
  d.levels.foldl (fun p m => p ||| ((if m.paLo < l.paLo then m.vpn va else m.ppn pte) <<< m.paLo)) (va.toNat % 4096)

/-! ### The walk -/

/-- What a walk finds: a physical address, with the entry to write back and where, or a fault. -/
inductive Walked where
  | page (pa : Nat) (update : Option (Nat × Word))
  | fault (c : Cause)
deriving DecidableEq, Repr

/-- The end of a walk at a leaf of level `l` (R221, R225-R229). -/
def walkLeaf (d : PtDesc) (va : Word) (acc : Access) (s : State) (at_ : Nat) (pte : Word) (l : LevelDesc)
    (below : List LevelDesc) : Walked :=
  if !leafAllows s.mxr acc pte || !leafAdmits s.priv s.sum acc pte then .fault (.pageFault acc)
  else if below.any (fun m => m.ppn pte ≠ 0) then .fault (.pageFault acc)
  else .page (assemble d l va pte) ((pteUpdated s.cfg acc pte).map fun u => (at_, u))

/-- The walk from the table at physical address `a`, over the levels left, highest first (R221). With no level left it is a
non-leaf at level 0 that led here (R223). -/
def walkFrom (d : PtDesc) (va : Word) (acc : Access) (s : State) : List LevelDesc → Nat → Walked
  | [], _ => .fault (.pageFault acc)
  | l :: below, a =>
    let at_ := a + l.vpn va * d.pteSize
    if !s.cfg.inRam at_ d.pteSize then .fault (.accessFault acc)
    else
      let pte := Memory.readLE s.mem at_ d.pteSize
      if pteInvalid d pte then .fault (.pageFault acc)
      else if pteNonLeaf pte then
        if pteU pte || pteA pte || pteD pte then .fault (.pageFault acc)
        else walkFrom d va acc s below (d.ppn pte * 4096)
      else walkLeaf d va acc s at_ pte l below

/-- The canonical check: bits 63..W are copies of bit W−1; every address of Sv32 passes (R204, R220). -/
def canonical (m : PtMode) (va : Word) : Bool :=
  match m with
  | .sv39 => (low 39 va).signExtend 64 == va
  | .sv48 => (low 48 va).signExtend 64 == va
  | .sv32 | .bare => true

/-- `Translate(va, acc)` without the TLB (R217, R220, R221). -/
def walk (va : Word) (acc : Access) (s : State) : Walked :=
  match s.paging with
  | .bare => .page va.toNat none
  | .virtual =>
    if canonical s.ptMode va then walkFrom s.ptMode.desc va acc s s.ptMode.desc.levels s.root
    else .fault (.pageFault acc)

/-! ### The TLB -/

/-- The tag that an access to `va` looks for (R230). -/
def State.tlbTag (s : State) (va : Word) : TlbTag := ⟨va.toNat / 4096, s.priv, s.sum, s.mxr⟩

/-- The access is among the entry's rights (R230). -/
def TlbEntry.allows (e : TlbEntry) (acc : Access) : Bool :=
  match acc with
  | .read => e.r
  | .write => e.w
  | .exec => e.x

/-- The entry with the access added to its rights (R231). -/
def TlbEntry.grant (e : TlbEntry) (acc : Access) : TlbEntry :=
  match acc with
  | .read => { e with r := true }
  | .write => { e with w := true }
  | .exec => { e with x := true }

/-- The entry with this tag. -/
def tlbLookup (t : List TlbEntry) (tag : TlbTag) : Option TlbEntry := t.find? fun e => e.tag == tag

/-- Put `n` in the place of the entry with its tag, or at the end (R230: one entry for each tag). -/
def tlbPut (n : TlbEntry) : List TlbEntry → List TlbEntry
  | [] => [n]
  | e :: t => if e.tag = n.tag then n :: t else e :: tlbPut n t

/-- Fill: only where the physical address is inside RAM (R231). -/
def tlbFill (va : Word) (acc : Access) (p : Nat) (s : State) : State :=
  if s.cfg.inRam p 1 then
    let old := (tlbLookup s.tlb (s.tlbTag va)).filter fun e => e.ppage == p / 4096
    let base := old.getD ⟨s.tlbTag va, false, false, false, p / 4096⟩
    { s with tlb := tlbPut (base.grant acc) s.tlb }
  else s

/-- The entry that may serve the access (R232). -/
def tlbMatch (va : Word) (acc : Access) (s : State) : Option TlbEntry :=
  (tlbLookup s.tlb (s.tlbTag va)).filter fun e => e.allows acc

/-- All entries are removed (R238). -/
def tlbFlush (s : State) : State := { s with tlb := [] }

/-- The write-back of `UpdateAD` (R228). -/
def writeBackPte (update : Option (Nat × Word)) (s : State) : State :=
  match update with
  | some u => { s with mem := Memory.writeLE s.mem u.1 s.ptMode.desc.pteSize u.2 }
  | none => s

/-- Translation by a walk, with its write-back and its fill (R228, R231, R234). -/
def translateByWalk (va : Word) (acc : Access) (s : State) : Res Nat :=
  match walk va acc s with
  | .page p update => .ok p (tlbFill va acc p (writeBackPte update s))
  | .fault c => .trap c va s

/-- `Translate(va, acc)` with the TLB: a matching entry may be used or not (R232, R233). Where the walk gives the entry's
address and writes nothing back, both are one and no choice is made (log 8). -/
def translate (va : Word) (acc : Access) (s : State) : Res Nat :=
  match tlbMatch va acc s with
  | some e =>
    let p := e.ppage * 4096 + va.toNat % 4096
    if walk va acc s = .page p none then .ok p s
    else if Config.freeTlbHit s.free then .ok p s.tick
    else translateByWalk va acc s.tick
  | none => translateByWalk va acc s

/-! ### Virtual accesses -/

/-- The physical access of a sub-access at `va` (R206, R207, R211). -/
def physOrTrap (va : Word) (p n : Nat) (acc : Access) (data : Word) (s : State) : Res Word :=
  match physAccess p n acc data s with
  | (some v, t) => .ok v t
  | (none, t) => .trap (.accessFault acc) va t

/-- A sub-access (R211). -/
def subAccess (va : Word) (n : Nat) (acc : Access) (data : Word) (s : State) : Res Word :=
  (translate va acc s).bind fun p s => physOrTrap va p n acc data s

/-- The access crosses a 4 KiB page boundary (R210). -/
def crossesPage (va : Word) (n : Nat) : Bool := 4096 < va.toNat % 4096 + n

/-- `mem_op(va, n, acc, data)`: one sub-access, or two with the lower first (R210, R212, R213). -/
def memOp (va : Word) (n : Nat) (acc : Access) (data : Word) (s : State) : Res Word :=
  if crossesPage va n then
    let k := 4096 - va.toNat % 4096
    (subAccess va k acc data s).bind fun lo s =>
      (subAccess (s.cfg.xlen.trunc (va + BitVec.ofNat 64 k)) (n - k) acc (data >>> (8 * k)) s).bind fun hi s =>
        .ok (lo ||| (hi <<< (8 * k))) s
  else subAccess va n acc data s

/-- `MemRead(va, n)` (R33). -/
def memRead (va : Word) (n : Nat) (s : State) : Res Word := memOp va n .read 0 s

/-- `MemWrite(va, n, v)` (R33). -/
def memWrite (va : Word) (n : Nat) (v : Word) (s : State) : Res Unit :=
  (memOp va n .write v s).bind fun _ s => .ok () s

/-- `Fetch(va, n)` (R33, R215). -/
def fetchBytes (va : Word) (n : Nat) (s : State) : Res Word := memOp va n .exec 0 s

end Sys2Proof.Machine
end

