-- ==== Sys2Proof/Machine/LoadStore.lean ====
section
/-! DEFINITION. Loads, stores and fences (42_loadstore.md). -/

namespace Sys2Proof.Machine

/-- `ea <- x[rs1] + v`, modulo 2^XLEN (R500). -/
def effAddr (rs1 : RegIdx) (v : Word) (s : State) : Word := s.cfg.xlen.trunc (s.x rs1 + v)

/-- How a load extends the bytes it read to XLEN bits (R501-R507). -/
inductive LoadKind where
  | b | h | w | d | bu | hu | wu
deriving DecidableEq, Repr

/-- The bytes a load reads. -/
def loadSize : LoadKind → Nat
  | .b | .bu => 1
  | .h | .hu => 2
  | .w | .wu => 4
  | .d => 8

/-- The register value of a load (R501-R507). -/
def loadValue (k : LoadKind) (x : Xlen) (v : Word) : Word :=
  match k with
  | .b => x.sext (low 8 v)
  | .h => x.sext (low 16 v)
  | .w => x.sext (low 32 v)
  | .d => v
  | .bu => zext (low 8 v)
  | .hu => zext (low 16 v)
  | .wu => zext (low 32 v)

/-- A load: read at the effective address, then write rd (R500). -/
def doLoad (k : LoadKind) (rd rs1 : RegIdx) (off : Word) (len : Nat) (s : State) : Out :=
  (memRead (effAddr rs1 off s) (loadSize k) s).finish fun v t => writeBack rd (loadValue k t.cfg.xlen v) len t

/-- A store of the low `n` bytes of `x[rs2]`, then R602 (R500). -/
def doStore (n : Nat) (rs1 rs2 : RegIdx) (off : Word) (len : Nat) (s : State) : Out :=
  (memWrite (effAddr rs1 off s) n (s.x rs2) s).finish fun _ t => noEffect len (storeDone t)

/-- LB (R501). -/
def execLb (rd rs1 : RegIdx) (imm : BitVec 12) (s : State) : Out :=
  doLoad .b rd rs1 (s.cfg.xlen.sext imm) 4 s

/-- LH (R502). -/
def execLh (rd rs1 : RegIdx) (imm : BitVec 12) (s : State) : Out :=
  doLoad .h rd rs1 (s.cfg.xlen.sext imm) 4 s

/-- LW (R503). -/
def execLw (rd rs1 : RegIdx) (imm : BitVec 12) (s : State) : Out :=
  doLoad .w rd rs1 (s.cfg.xlen.sext imm) 4 s

/-- LD (R504). -/
def execLd (rd rs1 : RegIdx) (imm : BitVec 12) (s : State) : Out :=
  whenLegal (.ld rd rs1 imm) s fun s =>
    doLoad .d rd rs1 (s.cfg.xlen.sext imm) 4 s

/-- LBU (R505). -/
def execLbu (rd rs1 : RegIdx) (imm : BitVec 12) (s : State) : Out :=
  doLoad .bu rd rs1 (s.cfg.xlen.sext imm) 4 s

/-- LHU (R506). -/
def execLhu (rd rs1 : RegIdx) (imm : BitVec 12) (s : State) : Out :=
  doLoad .hu rd rs1 (s.cfg.xlen.sext imm) 4 s

/-- LWU (R507). -/
def execLwu (rd rs1 : RegIdx) (imm : BitVec 12) (s : State) : Out :=
  whenLegal (.lwu rd rs1 imm) s fun s =>
    doLoad .wu rd rs1 (s.cfg.xlen.sext imm) 4 s

/-- SB (R508). -/
def execSb (rs1 rs2 : RegIdx) (imm : BitVec 12) (s : State) : Out :=
  doStore 1 rs1 rs2 (s.cfg.xlen.sext imm) 4 s

/-- SH (R509). -/
def execSh (rs1 rs2 : RegIdx) (imm : BitVec 12) (s : State) : Out :=
  doStore 2 rs1 rs2 (s.cfg.xlen.sext imm) 4 s

/-- SW (R510). -/
def execSw (rs1 rs2 : RegIdx) (imm : BitVec 12) (s : State) : Out :=
  doStore 4 rs1 rs2 (s.cfg.xlen.sext imm) 4 s

/-- SD (R511). -/
def execSd (rs1 rs2 : RegIdx) (imm : BitVec 12) (s : State) : Out :=
  whenLegal (.sd rs1 rs2 imm) s fun s =>
    doStore 8 rs1 rs2 (s.cfg.xlen.sext imm) 4 s

/-- FENCE: no operation (R520). -/
def execFence (_fm _pred _succ : BitVec 4) (_rs1 _rd : RegIdx) (s : State) : Out :=
  noEffect 4 s

/-- FENCE.I: no operation (R521). -/
def execFenceI (_imm : BitVec 12) (_rs1 _rd : RegIdx) (s : State) : Out :=
  noEffect 4 s

end Sys2Proof.Machine
end

