-- ==== Sys2Proof/Machine/Atomic.lean ====
section
/-! DEFINITION. Atomic memory operations (44_atomic.md). The aq and rl bits have no effect (R600). -/

namespace Sys2Proof.Machine

/-- The address is not a multiple of the access's bytes (R604). -/
def misaligned (a : Word) (n : Nat) : Bool := a.toNat % n ≠ 0

/-- The register value of the `n` bytes an atomic read: `sext_32` for .W (R608). -/
def atomicValue (n : Nat) (x : Xlen) (v : Word) : Word := if n = 4 then x.sext (low 32 v) else v

/-- The new memory value: the function on `n` × 8 bits (R608, R632). -/
def atomicNew (n : Nat) (f : BinOp) (old b : Word) : Word :=
  if n = 4 then zext (f 32 (low 32 old) (low 32 b)) else f 64 old b

/-- LR.W and LR.D (R610, R612). -/
def doLr (n : Nat) (rd rs1 : RegIdx) (s : State) : Out :=
  let a := effAddr rs1 0 s
  if misaligned a n then fail .loadMisaligned a s
  else (memRead a n s).finish fun v t => writeBack rd (atomicValue n t.cfg.xlen v) 4 { t with resv := true }

/-- SC.W and SC.D (R611, R613); after a write that faults the reservation is a free value (R605; log 11). -/
def doSc (n : Nat) (rd rs1 rs2 : RegIdx) (s : State) : Out :=
  let a := effAddr rs1 0 s
  if misaligned a n then fail .storeMisaligned a s
  else if s.resv then
    match memWrite a n (s.x rs2) s with
    | .ok _ t => writeBack rd 0 4 { t with resv := false }
    | .trap c v t => fail c v ({ t with resv := Config.freeResvAfterFault t.free }.tick)
  else writeBack rd 1 4 { s with resv := false }

/-- An AMO's physical access: its faults are WRITE faults at the address, also on the read phase (R605, R607). -/
def amoPhys (a : Word) (p n : Nat) (acc : Access) (data : Word) (s : State) : Res Word :=
  match physAccess p n acc data s with
  | (some v, t) => .ok v t
  | (none, t) => .trap (.accessFault .write) a t

/-- Read, compute and write at one physical address: the old value (R605, R632). -/
def amoAccess (n : Nat) (f : BinOp) (a b : Word) (s : State) : Res Word :=
  (translate a .write s).bind fun p s =>
    (amoPhys a p n .read 0 s).bind fun old s =>
      (amoPhys a p n .write (atomicNew n f old b) s).bind fun _ s => .ok old s

/-- A read-modify-write operation (R632), then R602. -/
def doAmo (n : Nat) (f : BinOp) (rd rs1 rs2 : RegIdx) (s : State) : Out :=
  let a := effAddr rs1 0 s
  if misaligned a n then fail .storeMisaligned a s
  else (amoAccess n f a (s.x rs2) s).finish fun old t =>
    writeBack rd (atomicValue n t.cfg.xlen old) 4 (storeDone t)

/-- LR.W (R610). -/
def execLrW (rd rs1 : RegIdx) (_aq _rl : Bool) (s : State) : Out :=
  doLr 4 rd rs1 s

/-- SC.W (R611). -/
def execScW (rd rs1 rs2 : RegIdx) (_aq _rl : Bool) (s : State) : Out :=
  doSc 4 rd rs1 rs2 s

/-- LR.D (R612). -/
def execLrD (rd rs1 : RegIdx) (aq rl : Bool) (s : State) : Out :=
  whenLegal (.lrD rd rs1 aq rl) s fun s =>
    doLr 8 rd rs1 s

/-- SC.D (R613). -/
def execScD (rd rs1 rs2 : RegIdx) (aq rl : Bool) (s : State) : Out :=
  whenLegal (.scD rd rs1 rs2 aq rl) s fun s =>
    doSc 8 rd rs1 rs2 s

/-- AMOSWAP.W (R614). -/
def execAmoswapW (rd rs1 rs2 : RegIdx) (_aq _rl : Bool) (s : State) : Out :=
  doAmo 4 Alu.second rd rs1 rs2 s

/-- AMOADD.W (R615). -/
def execAmoaddW (rd rs1 rs2 : RegIdx) (_aq _rl : Bool) (s : State) : Out :=
  doAmo 4 Alu.add rd rs1 rs2 s

/-- AMOXOR.W (R616). -/
def execAmoxorW (rd rs1 rs2 : RegIdx) (_aq _rl : Bool) (s : State) : Out :=
  doAmo 4 Alu.xor rd rs1 rs2 s

/-- AMOAND.W (R617). -/
def execAmoandW (rd rs1 rs2 : RegIdx) (_aq _rl : Bool) (s : State) : Out :=
  doAmo 4 Alu.and rd rs1 rs2 s

/-- AMOOR.W (R618). -/
def execAmoorW (rd rs1 rs2 : RegIdx) (_aq _rl : Bool) (s : State) : Out :=
  doAmo 4 Alu.or rd rs1 rs2 s

/-- AMOMIN.W (R619). -/
def execAmominW (rd rs1 rs2 : RegIdx) (_aq _rl : Bool) (s : State) : Out :=
  doAmo 4 Alu.min rd rs1 rs2 s

/-- AMOMAX.W (R620). -/
def execAmomaxW (rd rs1 rs2 : RegIdx) (_aq _rl : Bool) (s : State) : Out :=
  doAmo 4 Alu.max rd rs1 rs2 s

/-- AMOMINU.W (R621). -/
def execAmominuW (rd rs1 rs2 : RegIdx) (_aq _rl : Bool) (s : State) : Out :=
  doAmo 4 Alu.minu rd rs1 rs2 s

/-- AMOMAXU.W (R622). -/
def execAmomaxuW (rd rs1 rs2 : RegIdx) (_aq _rl : Bool) (s : State) : Out :=
  doAmo 4 Alu.maxu rd rs1 rs2 s

/-- AMOSWAP.D (R623). -/
def execAmoswapD (rd rs1 rs2 : RegIdx) (aq rl : Bool) (s : State) : Out :=
  whenLegal (.amoswapD rd rs1 rs2 aq rl) s fun s =>
    doAmo 8 Alu.second rd rs1 rs2 s

/-- AMOADD.D (R624). -/
def execAmoaddD (rd rs1 rs2 : RegIdx) (aq rl : Bool) (s : State) : Out :=
  whenLegal (.amoaddD rd rs1 rs2 aq rl) s fun s =>
    doAmo 8 Alu.add rd rs1 rs2 s

/-- AMOXOR.D (R625). -/
def execAmoxorD (rd rs1 rs2 : RegIdx) (aq rl : Bool) (s : State) : Out :=
  whenLegal (.amoxorD rd rs1 rs2 aq rl) s fun s =>
    doAmo 8 Alu.xor rd rs1 rs2 s

/-- AMOAND.D (R626). -/
def execAmoandD (rd rs1 rs2 : RegIdx) (aq rl : Bool) (s : State) : Out :=
  whenLegal (.amoandD rd rs1 rs2 aq rl) s fun s =>
    doAmo 8 Alu.and rd rs1 rs2 s

/-- AMOOR.D (R627). -/
def execAmoorD (rd rs1 rs2 : RegIdx) (aq rl : Bool) (s : State) : Out :=
  whenLegal (.amoorD rd rs1 rs2 aq rl) s fun s =>
    doAmo 8 Alu.or rd rs1 rs2 s

/-- AMOMIN.D (R628). -/
def execAmominD (rd rs1 rs2 : RegIdx) (aq rl : Bool) (s : State) : Out :=
  whenLegal (.amominD rd rs1 rs2 aq rl) s fun s =>
    doAmo 8 Alu.min rd rs1 rs2 s

/-- AMOMAX.D (R629). -/
def execAmomaxD (rd rs1 rs2 : RegIdx) (aq rl : Bool) (s : State) : Out :=
  whenLegal (.amomaxD rd rs1 rs2 aq rl) s fun s =>
    doAmo 8 Alu.max rd rs1 rs2 s

/-- AMOMINU.D (R630). -/
def execAmominuD (rd rs1 rs2 : RegIdx) (aq rl : Bool) (s : State) : Out :=
  whenLegal (.amominuD rd rs1 rs2 aq rl) s fun s =>
    doAmo 8 Alu.minu rd rs1 rs2 s

/-- AMOMAXU.D (R631). -/
def execAmomaxuD (rd rs1 rs2 : RegIdx) (aq rl : Bool) (s : State) : Out :=
  whenLegal (.amomaxuD rd rs1 rs2 aq rl) s fun s =>
    doAmo 8 Alu.maxu rd rs1 rs2 s

end Sys2Proof.Machine
end

