-- ==== Sys2Proof/Machine/Control.lean ====
section
/-! DEFINITION. Control-transfer instructions (41_control.md). -/

namespace Sys2Proof.Machine

/-- `(x[rs1] + v) & ~1`, the target of the register jumps (R452). -/
def registerTarget (rs1 : RegIdx) (v : Word) (s : State) : Word := (s.x rs1 + v) &&& ~~~1#64

/-- JAL (R451). -/
def execJal (rd : RegIdx) (offset : BitVec 20) (s : State) : Out :=
  jumpLink rd (s.pc + offsetOf s.cfg.xlen offset) 4 s

/-- JALR (R452). -/
def execJalr (rd rs1 : RegIdx) (imm : BitVec 12) (s : State) : Out :=
  jumpLink rd (registerTarget rs1 (s.cfg.xlen.sext imm) s) 4 s

/-- BEQ (R453). -/
def execBeq (rs1 rs2 : RegIdx) (offset : BitVec 12) (s : State) : Out :=
  branchIf (Cond.eq s.cfg.xlen (s.x rs1) (s.x rs2)) (offsetOf s.cfg.xlen offset) 4 s

/-- BNE (R454). -/
def execBne (rs1 rs2 : RegIdx) (offset : BitVec 12) (s : State) : Out :=
  branchIf (!Cond.eq s.cfg.xlen (s.x rs1) (s.x rs2)) (offsetOf s.cfg.xlen offset) 4 s

/-- BLT (R455). -/
def execBlt (rs1 rs2 : RegIdx) (offset : BitVec 12) (s : State) : Out :=
  branchIf (Cond.lt s.cfg.xlen (s.x rs1) (s.x rs2)) (offsetOf s.cfg.xlen offset) 4 s

/-- BGE (R456). -/
def execBge (rs1 rs2 : RegIdx) (offset : BitVec 12) (s : State) : Out :=
  branchIf (!Cond.lt s.cfg.xlen (s.x rs1) (s.x rs2)) (offsetOf s.cfg.xlen offset) 4 s

/-- BLTU (R457). -/
def execBltu (rs1 rs2 : RegIdx) (offset : BitVec 12) (s : State) : Out :=
  branchIf (Cond.ltu s.cfg.xlen (s.x rs1) (s.x rs2)) (offsetOf s.cfg.xlen offset) 4 s

/-- BGEU (R458). -/
def execBgeu (rs1 rs2 : RegIdx) (offset : BitVec 12) (s : State) : Out :=
  branchIf (!Cond.ltu s.cfg.xlen (s.x rs1) (s.x rs2)) (offsetOf s.cfg.xlen offset) 4 s

end Sys2Proof.Machine
end

