-- ==== Sys2Proof/Machine/Compressed.lean ====
section
/-! DEFINITION. Compressed instructions (47_compressed.md): each as its expansion, with length 2 (R750). -/

namespace Sys2Proof.Machine

/-- C.ADDI4SPN (R751). -/
def execCAddi4spn (rd : CRegIdx) (nzuimm : BitVec 8) (s : State) : Out :=
  whenLegal (.cAddi4spn rd nzuimm) s fun s =>
    writeBack (creg rd) (s.cfg.xlen.lift Alu.add (s.x sp) (uimm4 nzuimm)) 2 s

/-- C.LW (R752). -/
def execCLw (rd rs1 : CRegIdx) (uimm : BitVec 5) (s : State) : Out :=
  doLoad .w (creg rd) (creg rs1) (uimm4 uimm) 2 s

/-- C.LD (R753). -/
def execCLd (rd rs1 : CRegIdx) (uimm : BitVec 5) (s : State) : Out :=
  whenLegal (.cLd rd rs1 uimm) s fun s =>
    doLoad .d (creg rd) (creg rs1) (uimm8 uimm) 2 s

/-- C.SW (R754). -/
def execCSw (rs1 rs2 : CRegIdx) (uimm : BitVec 5) (s : State) : Out :=
  doStore 4 (creg rs1) (creg rs2) (uimm4 uimm) 2 s

/-- C.SD (R755). -/
def execCSd (rs1 rs2 : CRegIdx) (uimm : BitVec 5) (s : State) : Out :=
  whenLegal (.cSd rs1 rs2 uimm) s fun s =>
    doStore 8 (creg rs1) (creg rs2) (uimm8 uimm) 2 s

/-- C.NOP: no operation (R756). -/
def execCNop (_imm : BitVec 6) (s : State) : Out :=
  noEffect 2 s

/-- C.ADDI (R757). -/
def execCAddi (rd : RegIdx) (imm : BitVec 6) (s : State) : Out :=
  whenLegal (.cAddi rd imm) s fun s =>
    writeBack rd (s.cfg.xlen.lift Alu.add (s.x rd) (s.cfg.xlen.sext imm)) 2 s

/-- C.JAL (R758). -/
def execCJal (offset : BitVec 11) (s : State) : Out :=
  whenLegal (.cJal offset) s fun s =>
    jumpLink ra (s.pc + offsetOf s.cfg.xlen offset) 2 s

/-- C.ADDIW (R759). -/
def execCAddiw (rd : RegIdx) (imm : BitVec 6) (s : State) : Out :=
  whenLegal (.cAddiw rd imm) s fun s =>
    writeBack rd (wForm Alu.add (s.x rd) (s.cfg.xlen.sext imm)) 2 s

/-- C.LI (R760). -/
def execCLi (rd : RegIdx) (imm : BitVec 6) (s : State) : Out :=
  writeBack rd (s.cfg.xlen.sext imm) 2 s

/-- C.ADDI16SP (R761). -/
def execCAddi16sp (nzimm : BitVec 6) (s : State) : Out :=
  whenLegal (.cAddi16sp nzimm) s fun s =>
    writeBack sp (s.cfg.xlen.lift Alu.add (s.x sp) (imm16sp s.cfg.xlen nzimm)) 2 s

/-- C.LUI (R762). -/
def execCLui (rd : RegIdx) (nzimm : BitVec 6) (s : State) : Out :=
  whenLegal (.cLui rd nzimm) s fun s =>
    writeBack rd (immCLui s.cfg.xlen nzimm) 2 s

/-- C.SRLI (R763). -/
def execCSrli (rd : CRegIdx) (shamt : BitVec 6) (s : State) : Out :=
  whenLegal (.cSrli rd shamt) s fun s =>
    writeBack (creg rd) (s.cfg.xlen.lift Alu.srl (s.x (creg rd)) (zext shamt)) 2 s

/-- C.SRAI (R764). -/
def execCSrai (rd : CRegIdx) (shamt : BitVec 6) (s : State) : Out :=
  whenLegal (.cSrai rd shamt) s fun s =>
    writeBack (creg rd) (s.cfg.xlen.lift Alu.sra (s.x (creg rd)) (zext shamt)) 2 s

/-- C.ANDI (R765). -/
def execCAndi (rd : CRegIdx) (imm : BitVec 6) (s : State) : Out :=
  writeBack (creg rd) (s.cfg.xlen.lift Alu.and (s.x (creg rd)) (s.cfg.xlen.sext imm)) 2 s

/-- C.SUB (R766). -/
def execCSub (rd rs2 : CRegIdx) (s : State) : Out :=
  writeBack (creg rd) (s.cfg.xlen.lift Alu.sub (s.x (creg rd)) (s.x (creg rs2))) 2 s

/-- C.XOR (R767). -/
def execCXor (rd rs2 : CRegIdx) (s : State) : Out :=
  writeBack (creg rd) (s.cfg.xlen.lift Alu.xor (s.x (creg rd)) (s.x (creg rs2))) 2 s

/-- C.OR (R768). -/
def execCOr (rd rs2 : CRegIdx) (s : State) : Out :=
  writeBack (creg rd) (s.cfg.xlen.lift Alu.or (s.x (creg rd)) (s.x (creg rs2))) 2 s

/-- C.AND (R769). -/
def execCAnd (rd rs2 : CRegIdx) (s : State) : Out :=
  writeBack (creg rd) (s.cfg.xlen.lift Alu.and (s.x (creg rd)) (s.x (creg rs2))) 2 s

/-- C.SUBW (R770). -/
def execCSubw (rd rs2 : CRegIdx) (s : State) : Out :=
  whenLegal (.cSubw rd rs2) s fun s =>
    writeBack (creg rd) (wForm Alu.sub (s.x (creg rd)) (s.x (creg rs2))) 2 s

/-- C.ADDW (R771). -/
def execCAddw (rd rs2 : CRegIdx) (s : State) : Out :=
  whenLegal (.cAddw rd rs2) s fun s =>
    writeBack (creg rd) (wForm Alu.add (s.x (creg rd)) (s.x (creg rs2))) 2 s

/-- C.J (R772). -/
def execCJ (offset : BitVec 11) (s : State) : Out :=
  .next (s.setPc (s.pc + offsetOf s.cfg.xlen offset))

/-- C.BEQZ (R773). -/
def execCBeqz (rs1 : CRegIdx) (offset : BitVec 8) (s : State) : Out :=
  branchIf (Cond.eq s.cfg.xlen (s.x (creg rs1)) 0) (offsetOf s.cfg.xlen offset) 2 s

/-- C.BNEZ (R774). -/
def execCBnez (rs1 : CRegIdx) (offset : BitVec 8) (s : State) : Out :=
  branchIf (!Cond.eq s.cfg.xlen (s.x (creg rs1)) 0) (offsetOf s.cfg.xlen offset) 2 s

/-- C.SLLI (R775). -/
def execCSlli (rd : RegIdx) (shamt : BitVec 6) (s : State) : Out :=
  whenLegal (.cSlli rd shamt) s fun s =>
    writeBack rd (s.cfg.xlen.lift Alu.sll (s.x rd) (zext shamt)) 2 s

/-- C.LWSP (R776). -/
def execCLwsp (rd : RegIdx) (uimm : BitVec 6) (s : State) : Out :=
  whenLegal (.cLwsp rd uimm) s fun s =>
    doLoad .w rd sp (uimm4 uimm) 2 s

/-- C.LDSP (R777). -/
def execCLdsp (rd : RegIdx) (uimm : BitVec 6) (s : State) : Out :=
  whenLegal (.cLdsp rd uimm) s fun s =>
    doLoad .d rd sp (uimm8 uimm) 2 s

/-- C.JR (R778). -/
def execCJr (rs1 : RegIdx) (s : State) : Out :=
  whenLegal (.cJr rs1) s fun s =>
    .next (s.setPc (registerTarget rs1 0 s))

/-- C.MV (R779). -/
def execCMv (rd rs2 : RegIdx) (s : State) : Out :=
  whenLegal (.cMv rd rs2) s fun s =>
    writeBack rd (s.x rs2) 2 s

/-- C.EBREAK (R780). -/
def execCEbreak (s : State) : Out :=
  fail .breakpoint s.pc s

/-- C.JALR (R781). -/
def execCJalr (rs1 : RegIdx) (s : State) : Out :=
  whenLegal (.cJalr rs1) s fun s =>
    jumpLink ra (registerTarget rs1 0 s) 2 s

/-- C.ADD (R782). -/
def execCAdd (rd rs2 : RegIdx) (s : State) : Out :=
  whenLegal (.cAdd rd rs2) s fun s =>
    writeBack rd (s.cfg.xlen.lift Alu.add (s.x rd) (s.x rs2)) 2 s

/-- C.SWSP (R783). -/
def execCSwsp (rs2 : RegIdx) (uimm : BitVec 6) (s : State) : Out :=
  doStore 4 sp rs2 (uimm4 uimm) 2 s

/-- C.SDSP (R784). -/
def execCSdsp (rs2 : RegIdx) (uimm : BitVec 6) (s : State) : Out :=
  whenLegal (.cSdsp rs2 uimm) s fun s =>
    doStore 8 sp rs2 (uimm8 uimm) 2 s

end Sys2Proof.Machine
end

