-- ==== Sys2Proof/Machine/Csr.lean ====
section
/-! DEFINITION. The CSR bank's operations and policies (45_csr.md R650-R668). -/

namespace Sys2Proof.Machine

/-- The bank operations (R650). -/
inductive CsrOp where
  | swap
  | setBits
  | clearBits
deriving DecidableEq, Repr

/-- The post-operation value (R650). -/
def CsrOp.apply (op : CsrOp) (old v : Word) : Word :=
  match op with
  | .swap => v
  | .setBits => old ||| v
  | .clearBits => old &&& ~~~v

/-- The policy of entry (bank, id); an entry that `CSR_CONFIG` does not list is `ILL` (R125). Where the list names it twice the
first counts, with its default value (DESIGN CHOICE: log 27). -/
def csrPolicy (cfg : Config) (bank : BitVec 2) (id : Byte) : CsrPolicy :=
  match cfg.csrConfig.find? fun e => e.bank == bank && e.id == id with
  | some e => e.policy
  | none => .ill

/-- The bits of `new` that `mask` selects, over `old` (R664, R666). -/
def mergeBits (old new mask : Word) : Word := (old &&& ~~~mask) ||| (new &&& mask)

/-- satp's MODE field decoded; none where the mode is not supported (R131, R667). -/
def satpMode (x : Xlen) (v : Word) : Option PtMode :=
  match x with
  | .rv32 => if field v 31 1 = 1 then some .sv32 else some .bare
  | .rv64 =>
    match field v 60 4 with
    | 0 => some .bare
    | 8 => some .sv39
    | 9 => some .sv48
    | _ => none

/-- satp's PPN × 4096 (R107, R131). -/
def satpRoot (x : Xlen) (v : Word) : Nat :=
  match x with
  | .rv32 => field v 0 22 * 4096
  | .rv64 => field v 0 44 * 4096

/-- A write of `v` to satp: committed when its mode is supported, else without effect (R667, R668); committed also where `v` is the
stored value, which pt_mode and root need not mirror (DESIGN CHOICE: log 30). -/
def satpWrite (v : Word) (s : State) : State :=
  match satpMode s.cfg.xlen v with
  | some m => { s.setCsr kSatp v with ptMode := m, root := satpRoot s.cfg.xlen v }.recomputePaging
  | none => s

/-- What the entry's policy does with `op` and `v`: the old value, or none where it rejects (R659-R668). `key` is the entry's
own key. An `IP` policy writes every bit of ip that its write mask selects, as R666 computes it, also bits that R109 leaves out of
its table or to another writer: the reference masks select none (DESIGN CHOICE: log 28). A write mask with bits outside the read
mask clears those bits on an operand of 0, as R664 and R666 compute it, where R652 has reads without side effects: the reference masks
have no such bits (DESIGN CHOICE: log 29). An access to a SATP entry commits the value it computes also where that is the stored one:
where pt_mode and root do not mirror the stored value, as after a reset with a default other than 0, a read then changes them, as R668
computes it (DESIGN CHOICE: log 30). -/
def policyAccess (pol : CsrPolicy) (key : Nat) (op : CsrOp) (v : Word) (s : State) : Option (Word × State) :=
  match pol with
  | .rw =>
    let old := s.csrAt key
    some (old, s.setCsr key (op.apply old v))
  | .ro =>
    let old := s.csrAt key
    if s.cfg.xlen.trunc (op.apply old v) = old then some (old, s) else none
  | .ill => none
  | .view bank id rmask wmask =>
    let t := s.csrAt (csrKey bank id)
    let old := s.cfg.xlen.trunc (t &&& rmask)
    some (old, s.setCsr (csrKey bank id) (mergeBits t (op.apply old v) wmask))
  | .ip rmask wmask =>
    let old := s.cfg.xlen.trunc (s.ip &&& rmask)
    some (old, { s with ip := s.cfg.xlen.trunc (mergeBits s.ip (op.apply old v) wmask) })
  | .satp =>
    let old := s.csrAt key
    some (old, satpWrite (s.cfg.xlen.trunc (op.apply old v)) s)

/-- `CsrAccess(a, op, v)`: bank `a[9:8]`, id `a[7:0]`; none is `reject` (R121, R651, R661). -/
def csrAccess (a : BitVec 12) (op : CsrOp) (v : Word) (s : State) : Option (Word × State) :=
  let bank := a.extractLsb' 8 2
  let id := a.extractLsb' 0 8
  if s.priv.code < bank.toNat then none
  else policyAccess (csrPolicy s.cfg bank id) (csrKey bank id) op v s

/-- The common form of the six CSR instructions (R676). -/
def doCsr (i : Instr) (rd : RegIdx) (a : BitVec 12) (op : CsrOp) (v : Word) (s : State) : Out :=
  match csrAccess a op v s with
  | some r => writeBack rd r.1 4 r.2
  | none => illegal i s

end Sys2Proof.Machine
end

