-- ==== Sys2Proof/Machine/CsrInstr.lean ====
section
/-! DEFINITION. CSR instructions (45_csr.md R670-R676). -/

namespace Sys2Proof.Machine

/-- CSRRW (R670). -/
def execCsrrw (rd rs1 : RegIdx) (csr : BitVec 12) (s : State) : Out :=
  doCsr (.csrrw rd rs1 csr) rd csr .swap (s.x rs1) s

/-- CSRRS (R671). -/
def execCsrrs (rd rs1 : RegIdx) (csr : BitVec 12) (s : State) : Out :=
  doCsr (.csrrs rd rs1 csr) rd csr .setBits (s.x rs1) s

/-- CSRRC (R672). -/
def execCsrrc (rd rs1 : RegIdx) (csr : BitVec 12) (s : State) : Out :=
  doCsr (.csrrc rd rs1 csr) rd csr .clearBits (s.x rs1) s

/-- CSRRWI (R673). -/
def execCsrrwi (rd : RegIdx) (uimm : BitVec 5) (csr : BitVec 12) (s : State) : Out :=
  doCsr (.csrrwi rd uimm csr) rd csr .swap (zext uimm) s

/-- CSRRSI (R674). -/
def execCsrrsi (rd : RegIdx) (uimm : BitVec 5) (csr : BitVec 12) (s : State) : Out :=
  doCsr (.csrrsi rd uimm csr) rd csr .setBits (zext uimm) s

/-- CSRRCI (R675). -/
def execCsrrci (rd : RegIdx) (uimm : BitVec 5) (csr : BitVec 12) (s : State) : Out :=
  doCsr (.csrrci rd uimm csr) rd csr .clearBits (zext uimm) s

end Sys2Proof.Machine
end

