-- ==== Sys2Proof/Machine/Integer.lean ====
section
/-! DEFINITION. Integer computational instructions (40_integer.md). -/

namespace Sys2Proof.Machine

/-- `x[rd] <- f(x[rs1], x[rs2])` at width XLEN. -/
def aluRR (f : BinOp) (rd rs1 rs2 : RegIdx) (s : State) : Out :=
  writeBack rd (s.cfg.xlen.lift f (s.x rs1) (s.x rs2)) 4 s

/-- `x[rd] <- f(x[rs1], immI)` at width XLEN. -/
def aluRI (f : BinOp) (rd rs1 : RegIdx) (imm : BitVec 12) (s : State) : Out :=
  writeBack rd (s.cfg.xlen.lift f (s.x rs1) (s.cfg.xlen.sext imm)) 4 s

/-- `x[rd] <- f(x[rs1], shamt)` at width XLEN. -/
def aluShift (f : BinOp) (rd rs1 : RegIdx) (shamt : BitVec 6) (s : State) : Out :=
  writeBack rd (s.cfg.xlen.lift f (s.x rs1) (zext shamt)) 4 s

/-- `x[rd] <- sext_32(f(x[rs1][31:0], v[31:0]))` (R432). -/
def aluW (f : BinOp) (rd rs1 : RegIdx) (v : Word) (s : State) : Out :=
  writeBack rd (wForm f (s.x rs1) v) 4 s

/-- LUI (R400). -/
def execLui (rd : RegIdx) (imm : BitVec 20) (s : State) : Out :=
  writeBack rd (immU s.cfg.xlen imm) 4 s

/-- AUIPC (R401). -/
def execAuipc (rd : RegIdx) (imm : BitVec 20) (s : State) : Out :=
  writeBack rd (s.pc + immU s.cfg.xlen imm) 4 s

/-- ADDI (R402). -/
def execAddi (rd rs1 : RegIdx) (imm : BitVec 12) (s : State) : Out :=
  aluRI Alu.add rd rs1 imm s

/-- SLTI (R403). -/
def execSlti (rd rs1 : RegIdx) (imm : BitVec 12) (s : State) : Out :=
  writeBack rd (boolWord (Cond.lt s.cfg.xlen (s.x rs1) (s.cfg.xlen.sext imm))) 4 s

/-- SLTIU (R404). -/
def execSltiu (rd rs1 : RegIdx) (imm : BitVec 12) (s : State) : Out :=
  writeBack rd (boolWord (Cond.ltu s.cfg.xlen (s.x rs1) (s.cfg.xlen.sext imm))) 4 s

/-- XORI (R405). -/
def execXori (rd rs1 : RegIdx) (imm : BitVec 12) (s : State) : Out :=
  aluRI Alu.xor rd rs1 imm s

/-- ORI (R406). -/
def execOri (rd rs1 : RegIdx) (imm : BitVec 12) (s : State) : Out :=
  aluRI Alu.or rd rs1 imm s

/-- ANDI (R407). -/
def execAndi (rd rs1 : RegIdx) (imm : BitVec 12) (s : State) : Out :=
  aluRI Alu.and rd rs1 imm s

/-- SLLI (R408). -/
def execSlli (rd rs1 : RegIdx) (shamt : BitVec 6) (s : State) : Out :=
  whenLegal (.slli rd rs1 shamt) s fun s =>
    aluShift Alu.sll rd rs1 shamt s

/-- SRLI (R409). -/
def execSrli (rd rs1 : RegIdx) (shamt : BitVec 6) (s : State) : Out :=
  whenLegal (.srli rd rs1 shamt) s fun s =>
    aluShift Alu.srl rd rs1 shamt s

/-- SRAI (R410). -/
def execSrai (rd rs1 : RegIdx) (shamt : BitVec 6) (s : State) : Out :=
  whenLegal (.srai rd rs1 shamt) s fun s =>
    aluShift Alu.sra rd rs1 shamt s

/-- ADD (R411). -/
def execAdd (rd rs1 rs2 : RegIdx) (s : State) : Out :=
  aluRR Alu.add rd rs1 rs2 s

/-- SUB (R412). -/
def execSub (rd rs1 rs2 : RegIdx) (s : State) : Out :=
  aluRR Alu.sub rd rs1 rs2 s

/-- SLL (R413). -/
def execSll (rd rs1 rs2 : RegIdx) (s : State) : Out :=
  aluRR Alu.sll rd rs1 rs2 s

/-- SLT (R414). -/
def execSlt (rd rs1 rs2 : RegIdx) (s : State) : Out :=
  writeBack rd (boolWord (Cond.lt s.cfg.xlen (s.x rs1) (s.x rs2))) 4 s

/-- SLTU (R415). -/
def execSltu (rd rs1 rs2 : RegIdx) (s : State) : Out :=
  writeBack rd (boolWord (Cond.ltu s.cfg.xlen (s.x rs1) (s.x rs2))) 4 s

/-- XOR (R416). -/
def execXor (rd rs1 rs2 : RegIdx) (s : State) : Out :=
  aluRR Alu.xor rd rs1 rs2 s

/-- SRL (R417). -/
def execSrl (rd rs1 rs2 : RegIdx) (s : State) : Out :=
  aluRR Alu.srl rd rs1 rs2 s

/-- SRA (R418). -/
def execSra (rd rs1 rs2 : RegIdx) (s : State) : Out :=
  aluRR Alu.sra rd rs1 rs2 s

/-- OR (R419). -/
def execOr (rd rs1 rs2 : RegIdx) (s : State) : Out :=
  aluRR Alu.or rd rs1 rs2 s

/-- AND (R420). -/
def execAnd (rd rs1 rs2 : RegIdx) (s : State) : Out :=
  aluRR Alu.and rd rs1 rs2 s

/-- ADDIW (R421). -/
def execAddiw (rd rs1 : RegIdx) (imm : BitVec 12) (s : State) : Out :=
  whenLegal (.addiw rd rs1 imm) s fun s =>
    aluW Alu.add rd rs1 (s.cfg.xlen.sext imm) s

/-- SLLIW (R422). -/
def execSlliw (rd rs1 : RegIdx) (shamt : BitVec 5) (s : State) : Out :=
  whenLegal (.slliw rd rs1 shamt) s fun s =>
    aluW Alu.sll rd rs1 (zext shamt) s

/-- SRLIW (R423). -/
def execSrliw (rd rs1 : RegIdx) (shamt : BitVec 5) (s : State) : Out :=
  whenLegal (.srliw rd rs1 shamt) s fun s =>
    aluW Alu.srl rd rs1 (zext shamt) s

/-- SRAIW (R424). -/
def execSraiw (rd rs1 : RegIdx) (shamt : BitVec 5) (s : State) : Out :=
  whenLegal (.sraiw rd rs1 shamt) s fun s =>
    aluW Alu.sra rd rs1 (zext shamt) s

/-- ADDW (R425). -/
def execAddw (rd rs1 rs2 : RegIdx) (s : State) : Out :=
  whenLegal (.addw rd rs1 rs2) s fun s =>
    aluW Alu.add rd rs1 (s.x rs2) s

/-- SUBW (R426). -/
def execSubw (rd rs1 rs2 : RegIdx) (s : State) : Out :=
  whenLegal (.subw rd rs1 rs2) s fun s =>
    aluW Alu.sub rd rs1 (s.x rs2) s

/-- SLLW (R427). -/
def execSllw (rd rs1 rs2 : RegIdx) (s : State) : Out :=
  whenLegal (.sllw rd rs1 rs2) s fun s =>
    aluW Alu.sll rd rs1 (s.x rs2) s

/-- SRLW (R428). -/
def execSrlw (rd rs1 rs2 : RegIdx) (s : State) : Out :=
  whenLegal (.srlw rd rs1 rs2) s fun s =>
    aluW Alu.srl rd rs1 (s.x rs2) s

/-- SRAW (R429). -/
def execSraw (rd rs1 rs2 : RegIdx) (s : State) : Out :=
  whenLegal (.sraw rd rs1 rs2) s fun s =>
    aluW Alu.sra rd rs1 (s.x rs2) s

end Sys2Proof.Machine
end

