-- ==== Sys2Proof/Machine/MulDiv.lean ====
section
/-! DEFINITION. Multiply and divide (43_muldiv.md). -/

namespace Sys2Proof.Machine

/-- MUL (R551). -/
def execMul (rd rs1 rs2 : RegIdx) (s : State) : Out :=
  aluRR Alu.mul rd rs1 rs2 s

/-- MULH (R552). -/
def execMulh (rd rs1 rs2 : RegIdx) (s : State) : Out :=
  aluRR Alu.mulh rd rs1 rs2 s

/-- MULHSU (R553). -/
def execMulhsu (rd rs1 rs2 : RegIdx) (s : State) : Out :=
  aluRR Alu.mulhsu rd rs1 rs2 s

/-- MULHU (R554). -/
def execMulhu (rd rs1 rs2 : RegIdx) (s : State) : Out :=
  aluRR Alu.mulhu rd rs1 rs2 s

/-- DIV (R555). -/
def execDiv (rd rs1 rs2 : RegIdx) (s : State) : Out :=
  aluRR Alu.div rd rs1 rs2 s

/-- DIVU (R556). -/
def execDivu (rd rs1 rs2 : RegIdx) (s : State) : Out :=
  aluRR Alu.divu rd rs1 rs2 s

/-- REM (R557). -/
def execRem (rd rs1 rs2 : RegIdx) (s : State) : Out :=
  aluRR Alu.rem rd rs1 rs2 s

/-- REMU (R558). -/
def execRemu (rd rs1 rs2 : RegIdx) (s : State) : Out :=
  aluRR Alu.remu rd rs1 rs2 s

/-- MULW (R559). -/
def execMulw (rd rs1 rs2 : RegIdx) (s : State) : Out :=
  whenLegal (.mulw rd rs1 rs2) s fun s =>
    aluW Alu.mul rd rs1 (s.x rs2) s

/-- DIVW (R560). -/
def execDivw (rd rs1 rs2 : RegIdx) (s : State) : Out :=
  whenLegal (.divw rd rs1 rs2) s fun s =>
    aluW Alu.div rd rs1 (s.x rs2) s

/-- DIVUW (R561). -/
def execDivuw (rd rs1 rs2 : RegIdx) (s : State) : Out :=
  whenLegal (.divuw rd rs1 rs2) s fun s =>
    aluW Alu.divu rd rs1 (s.x rs2) s

/-- REMW (R562). -/
def execRemw (rd rs1 rs2 : RegIdx) (s : State) : Out :=
  whenLegal (.remw rd rs1 rs2) s fun s =>
    aluW Alu.rem rd rs1 (s.x rs2) s

/-- REMUW (R563). -/
def execRemuw (rd rs1 rs2 : RegIdx) (s : State) : Out :=
  whenLegal (.remuw rd rs1 rs2) s fun s =>
    aluW Alu.remu rd rs1 (s.x rs2) s

end Sys2Proof.Machine
end

