-- ==== Sys2Proof/Machine/System.lean ====
section
/-! DEFINITION. System instructions (46_system.md). -/

namespace Sys2Proof.Machine

/-- ECALL (R700). -/
def execEcall (s : State) : Out :=
  fail (.ecall s.priv) 0 s

/-- EBREAK (R701). -/
def execEbreak (s : State) : Out :=
  fail .breakpoint s.pc s

/-- MRET: an xRET request in M, else illegal (R702). -/
def execMret (s : State) : Out :=
  if s.priv = .machine then .next (requestXret .m s) else illegal .mret s

/-- SRET: an xRET request in S and M, else illegal (R703). -/
def execSret (s : State) : Out :=
  if s.priv = .user then illegal .sret s else .next (requestXret .s s)

/-- WFI: no operation in S and M, else illegal (R704). -/
def execWfi (s : State) : Out :=
  if s.priv = .user then illegal .wfi s else noEffect 4 s

/-- SFENCE.VMA: flush the TLB in S and M, else illegal (R705). -/
def execSfenceVma (rs1 rs2 : RegIdx) (s : State) : Out :=
  if s.priv = .user then illegal (.sfenceVma rs1 rs2) s else noEffect 4 (tlbFlush s)

end Sys2Proof.Machine
end

