-- ==== Sys2Proof/Machine/Agents.lean ====
section
/-! DEFINITION. What happens between instructions: interrupt selection by the reference trap unit (R940, R941), the platform's
and the interrupt sources' inputs (R10, R942, R962), the loss of TLB entries (R236), and the external trap unit (R911). -/

namespace Sys2Proof.Machine

/-! ### Interrupt selection -/

/-- The order of selection: MEI, MSI, MTI, SEI, SSI, STI (R941). -/
def irqOrder : List Nat := [11, 3, 7, 9, 1, 5]

/-- Interrupt `i` is pending and enabled in mie (R941). -/
def irqPending (s : State) (i : Nat) : Bool := (s.ip &&& s.csrAt kMie).getLsbD i

/-- Interrupt `i` is not delegated (R941). -/
def irqMLevel (s : State) (i : Nat) : Bool := !(s.csrAt kMideleg).getLsbD i

/-- The hart's privilege and mstatus admit interrupt `i` (R941). -/
def irqEnabled (s : State) (i : Nat) : Bool :=
  if irqMLevel s i then s.priv ≠ .machine || s.mstatusBit bMie
  else s.priv = .user || (s.priv = .supervisor && s.mstatusBit bSie)

/-- The interrupt taken at this boundary, every M-level candidate before every S-level one (R941). -/
def selectInterrupt (s : State) : Option Nat :=
  let ready := irqOrder.filter fun i => irqPending s i && irqEnabled s i
  (ready.find? (irqMLevel s)).or ready.head?

/-- The interrupt taken at this boundary: only the reference trap unit selects one (R940). -/
def boundaryInterrupt (s : State) : Option Nat :=
  match s.cfg.trapUnit with
  | .reference => selectInterrupt s
  | .external => none

/-! ### Other agents -/

/-- The platform drives an interrupt-pending bit (R13, R942). -/
def platformInput (bit : Nat) (level : Bool) (s : State) : State := { s with ip := setBit s.ip bit level }

/-- The TLB loses the entry with this tag (R236). -/
def dropEntry (tag : TlbTag) (s : State) : State := { s with tlb := s.tlb.filter fun e => e.tag != tag }

/-- The external trap unit writes one entry of the CSR bank, satp by R668 (R911; log 16). -/
def trapUnitCsr (s : State) (w : (BitVec 2 × Byte) × Word) : State :=
  match csrPolicy s.cfg w.1.1 w.1.2 with
  | .satp => satpWrite (s.cfg.xlen.trunc w.2) s
  | _ => s.setCsr (csrKey w.1.1 w.1.2) w.2

/-- One step of the external trap unit: it may write CSR values, priv and pc, and the hart runs again (R911; log 16). -/
def trapUnitStep (m : TrapMove) (s : State) : State :=
  let s := m.csrs.foldl trapUnitCsr s
  let s := s.setPriv (m.priv.getD s.priv)
  let s := s.setPc (m.pc.getD s.pc)
  { s with runState := .running }

/-- The move of an agent other than the hart. A raise that fails, and a move of a trap unit that is not external, change
nothing (R911, R962). -/
def agentMove (t : Turn) (s : State) : State :=
  match t with
  | .hart => s
  | .raiseSource src => raiseSource src s
  | .platformSoftware level => platformInput 3 level s
  | .platformTimer level => platformInput 7 level s
  | .dropTlb tag => dropEntry tag s
  | .trapUnit m =>
    match s.cfg.trapUnit with
    | .external => trapUnitStep m s
    | .reference => s

end Sys2Proof.Machine
end

