-- ==== Sys2Proof/Machine/Fetch.lean ====
section
/-! DEFINITION. Fetching an instruction (R215, R301), and placing one where the next step fetches it. -/

namespace Sys2Proof.Machine

/-- The low two bits say that the instruction is compressed (R301). -/
def isCompressed (w : Word) : Bool := low 2 w != 3#2

/-- Fetch at pc: a 2-byte instruction where bits [1:0] are not 11, else a 4-byte one (R301). At the final two bytes of a page
the second half is fetched only where it is needed (R215). -/
def fetch (s : State) : Res Raw :=
  if s.pc.getLsbD 0 then .trap .instMisaligned s.pc s
  else if low 12 s.pc = 0xFFE#12 then
    (fetchBytes s.pc 2 s).bind fun lo s =>
      if isCompressed lo then .ok (.half (low 16 lo)) s
      else (fetchBytes (s.pcPlus 2) 2 s).bind fun hi s => .ok (.full (low 16 hi ++ low 16 lo)) s
  else
    (fetchBytes s.pc 4 s).bind fun w s =>
      .ok (if isCompressed w then .half (low 16 w) else .full (low 32 w)) s

/-- Where the 2 bytes at `va` are fetched from, found by a walk. -/
def fetchPlace (va : Word) (s : State) : Nat :=
  match walk va .exec s with
  | .page p _ => p
  | .fault _ => va.toNat

/-- `s` with the 4 bytes of `w` in RAM where its next fetch reads. The hart's turn is next, no interrupt precedes it, and the
fetch walks (log 22). -/
def placeInstruction (w : Word) (s : State) : State :=
  let m := Memory.writeLE s.mem (fetchPlace s.pc s) 2 w
  let m := Memory.writeLE m (fetchPlace (s.pcPlus 2) s) 2 (w >>> 16)
  { s with
    mem := m
    tlb := []
    turns := []
    runState := .running
    ip := if (boundaryInterrupt s).isSome then 0 else s.ip }

/-- The machine that runs a table word: `s` where its own XLEN reads the instruction, else a machine of the XLEN that does
(log 18). -/
def machineFor (s : State) (nbits w : Nat) : State :=
  if decodeTableAt s.cfg.xlen nbits w = decodeTableWord nbits w then s
  else State.resetOf (Config.reference (tableXlen nbits w)) []

end Sys2Proof.Machine
end

