-- ==== Sys2Proof/Machine/Step.lean ====
section
/-! DEFINITION. One step of the machine: the turn of the agent that moves next (R9, R10; log 6). -/

namespace Sys2Proof.Machine

/-- Execute what was fetched: the instruction it decodes to, or IllegalInstruction with the fetched bits (R300, R312, R340). -/
def execRaw (r : Raw) (s : State) : Out :=
  match decode s.cfg.xlen r with
  | .ok i => exec i s
  | .error _ => fail .illegalInstruction r.bits s

/-- One instruction: fetch, decode, execute (R300, R301). -/
def runInstruction (s : State) : Out := (fetch s).finish execRaw

/-- The hart's turn while it runs: the interrupt taken at this boundary, or one instruction (R300, R940; log 23). -/
def hartTurn (s : State) : Out :=
  match boundaryInterrupt s with
  | some i => .next (takeInterrupt i s)
  | none => runInstruction s

/-- One step of the machine. A configuration that is not well formed is refused (R21); a halted hart with no agent left to
move is stuck (R106, R910; log 14). -/
def step (s : State) : Host.Outcome State Fault Refusal :=
  if s.cfg.wf then
    match s.turns with
    | [] => if s.runState = .running then hartTurn s else .fault .hartHalted
    | .hart :: rest =>
      if s.runState = .running then hartTurn { s with turns := rest } else .next { s with turns := rest }
    | t :: rest => .next (agentMove t { s with turns := rest })
  else .refused .illFormedConfig

/-- `s` with the instruction whose bits are `w` stored where the next step fetches it (log 18, log 22). -/
def State.withFetchWord (s : State) (nbits w : Nat) : State :=
  placeInstruction (BitVec.ofNat 64 (w % 2 ^ nbits)) (machineFor s nbits w)

end Sys2Proof.Machine
end

