-- ==== Sys2Proof/Safety.lean ====
section
/-! DEFINITION. What holds of the machine in every run: the properties that statements take as premises, and that every step
keeps. -/

namespace Sys2Proof.Machine

/-- A value of XLEN bits (R31). -/
def InWidth (x : Xlen) (v : Word) : Prop := x.trunc v = v

/-- RAM is in canonical form and lists no address outside RAM (R200). -/
structure MemoryOk (s : State) : Prop where
  canonical : Memory.wf s.mem = true
  inside : ∀ c ∈ s.mem, s.cfg.inRam c.1 1 = true

/-- Registers, pc, ip and CSR values have XLEN bits, and the CSR table is in canonical form (R101, R103, R109, R120). -/
structure WidthOk (s : State) : Prop where
  regs : ∀ i : Fin 32, InWidth s.cfg.xlen s.regs[i]
  pc : InWidth s.cfg.xlen s.pc
  ip : InWidth s.cfg.xlen s.ip
  csr : ∀ e ∈ s.csr, InWidth s.cfg.xlen e.2
  csrCanonical : Table.wf 0 s.csr = true

/-- The paging flag follows priv and pt_mode (R108). -/
def PagingOk (s : State) : Prop := s.paging = pagingOf s.priv s.ptMode

/-- One TLB entry for a tag (R230), each inside RAM (R231); while paging is bare each maps its page to itself (R217, R238). -/
structure TlbOk (s : State) : Prop where
  oneEach : s.tlb.Pairwise fun a b => a.tag ≠ b.tag
  inside : ∀ e ∈ s.tlb, s.cfg.inRam (e.ppage * 4096) 4096 = true
  identity : s.paging = .bare → ∀ e ∈ s.tlb, e.ppage = e.tag.vpn

/-- pt_mode and root mirror satp (R107). -/
def SatpMirror (s : State) : Prop :=
  satpMode s.cfg.xlen (s.csrAt kSatp) = some s.ptMode ∧ satpRoot s.cfg.xlen (s.csrAt kSatp) = s.root

/-- The interrupt-pending bits that exist: 1, 3, 5, 7, 9 and 11 (R109). -/
def ipMask : Word := 0xAAA

/-- Every other bit of ip is 0 (R109). -/
def IpOk (s : State) : Prop := s.ip &&& ~~~ipMask = 0

/-- Source ids that are stored exist: pending bits and claims are below N, and `pending[0]` is 0 (R951). -/
structure PlicOk (s : State) : Prop where
  pending : ∀ i, s.plic.isPending i = true → 1 ≤ i ∧ i < s.cfg.plicSources
  claim : ∀ c, s.plic.claimOf c < s.cfg.plicSources

/-- The read-only entries of the reference `CSR_CONFIG` hold their defaults (R130, R660). -/
structure ReadOnlyCsrs (s : State) : Prop where
  misa : s.csrAt (csrKey 3 0x01) = misaValue s.cfg.xlen
  mvendorid : s.csrAt (csrKey 3 0x11) = 0
  marchid : s.csrAt (csrKey 3 0x12) = 0
  mimpid : s.csrAt (csrKey 3 0x13) = 0
  mhartid : s.csrAt (csrKey 3 0x14) = 0

/-- The pc is even (R103). -/
def PcEven (s : State) : Prop := s.pc.getLsbD 0 = false

/-- The CSR bank is the reference one (R130). -/
def ReferenceCsrs (s : State) : Prop := s.cfg.csrConfig = referenceCsrs s.cfg.xlen

end Sys2Proof.Machine
end

