-- ==== Sys2Proof/Certificates/Slice0/Obligations.lean ====
section
/-! DEFINITION. The statements for the provers, and the vocabulary of the spec they are written in: numbers, bytes and
register results, independent of the model's own helpers. -/

namespace Sys2Proof.Spec

open Sys2Proof.Machine

/-! ### Numbers, registers and pc -/

/-- 2^XLEN. -/
def modulus (s : State) : Nat := 2 ^ s.cfg.xlen.bits

/-- A number as an XLEN-bit value (R31). -/
def asWord (s : State) (v : Int) : Word := BitVec.ofInt 64 (v % (modulus s : Int))

/-- `u(x[r])` (R31). -/
def u (s : State) (r : RegIdx) : Nat := (s.x r).toNat % modulus s

/-- `s(x[r])` (R31). -/
def sg (s : State) (r : RegIdx) : Int := Int.bmod (u s r) (modulus s)

/-- The register bits of a sign-extended immediate, as a number (R306). -/
def uImm (s : State) {n : Nat} (imm : BitVec n) : Nat := (imm.toInt % (modulus s : Int)).toNat

/-- `pc <- v` modulo 2^XLEN, and nothing else. -/
def goesTo (s : State) (v : Int) : State := { s with pc := asWord s v }

/-- `x[rd] <- v` modulo 2^XLEN, discarded for x0 (R32), and nothing else. -/
def wrote (s : State) (rd : RegIdx) (v : Int) : State :=
  { s with regs := if rd = 0 then s.regs else s.regs.set rd.toNat (asWord s v) rd.isLt }

/-- `x[rd] <- v`, pc `len` on, and nothing else (R302). -/
def retired (s : State) (rd : RegIdx) (v : Int) (len : Nat) : State := goesTo (wrote s rd v) (s.pc.toNat + len)

/-- `x[rd] <- pc + len; pc <- target`, and nothing else (R450). -/
def linked (s : State) (rd : RegIdx) (target : Int) (len : Nat) : State := goesTo (wrote s rd (s.pc.toNat + len)) target

/-- A 32-bit result, sign-extended (R432, R564). -/
def sx32 (v : Int) : Int := Int.bmod v (2 ^ 32)

/-- `u` and `s` of the low 32 bits. -/
def u32 (s : State) (r : RegIdx) : Nat := (s.x r).toNat % 2 ^ 32
def s32 (s : State) (r : RegIdx) : Int := sx32 (u32 s r)

/-! ### Memory -/

/-- The number in the `n` bytes at `p`, little-endian (R201). -/
def leNat (m : Memory) (p : Nat) : Nat → Nat
  | 0 => 0
  | n + 1 => (Memory.read m p).toNat + 256 * leNat m (p + 1) n

/-- `m'` is `m` with the low `n` bytes of `v` at `p`, little-endian: every other byte is as before (R201). -/
def Stored (m m' : Memory) (p n v : Nat) : Prop :=
  ∀ a, Memory.read m' a =
    if p ≤ a ∧ a < p + n then BitVec.ofNat 8 (v / 256 ^ (a - p)) else Memory.read m a

/-- The reservation after a completed store or AMO (R602). -/
def ResvAfterStore (s t : State) : Prop :=
  match s.cfg.resvPolicy with
  | .never => t.resv = s.resv
  | .always => t.resv = false
  | .either => t.resv = true → s.resv = true

/-- The effective address: `x[rs1] + off` modulo 2^XLEN (R500). -/
def addr (s : State) (rs1 : RegIdx) (off : Int) : Nat := ((u s rs1 + off) % (modulus s : Int)).toNat

/-- An untranslated access of `n` bytes at `a` wholly inside RAM (R206, R217). The TLB is as every run leaves it (the premise
`TlbOk` is kept by every step: TranslationStateIsKept). -/
structure PlainRam (s : State) (a n : Nat) : Prop where
  bare : s.paging = .bare
  tlb : TlbOk s
  fits : a + n ≤ modulus s
  ram : s.cfg.inRam a n = true

/-- A translated access of `n` bytes at `va` that stays in one page, for which a walk finds physical address `p` inside RAM
and the entry `up` to write back, and which no TLB entry serves otherwise. -/
structure MappedRam (s : State) (va n : Nat) (acc : Access) (p : Nat) (up : Option (Nat × Word)) : Prop where
  width : va < 2 ^ 64
  onePage : va % 4096 + n ≤ 4096
  walks : walk (BitVec.ofNat 64 va) acc s = .page p up
  tlb : ∀ e, tlbMatch (BitVec.ofNat 64 va) acc s = some e → up = none ∧ e.ppage * 4096 + va % 4096 = p
  ram : s.cfg.inRam p n = true

/-- What one access may leave in RAM besides its own bytes: nothing, or the entry that its walk writes back (R228). `m` is RAM before
and `m'` after. -/
def WroteEntry (s : State) (va : Word) (acc : Access) (m m' : Memory) : Prop :=
  m' = m ∨ ∃ p q v, walk va acc { s with mem := m } = .page p (some (q, v)) ∧ Stored m m' q s.ptMode.desc.pteSize v.toNat

/-- The state after the first part of an access that crosses a page boundary: `k` bytes at `va`, at physical address `p`. Its walk
has written back `up`, and the TLB holds what it held or the fill of this part as well; RAM's other bytes are said where it is
used. -/
structure FirstPart (s m : State) (va : Nat) (k : Nat) (acc : Access) (data : Word) (p : Nat) (up : Option (Nat × Word)) :
    Prop where
  answers : ∃ v, subAccess (BitVec.ofNat 64 va) k acc data s = .ok v m
  frame : m = { writeBackPte up s with mem := m.mem, tlb := m.tlb }
  tlb : m.tlb = s.tlb ∨ m.tlb = (tlbFill (BitVec.ofNat 64 va) acc p (writeBackPte up s)).tlb

/-- The walk for an access at `va` faults with `c`, and no TLB entry serves the access (R234). -/
def WalkFaults (s : State) (va : Nat) (acc : Access) (c : Cause) : Prop :=
  walk (BitVec.ofNat 64 va) acc s = .fault c ∧ tlbMatch (BitVec.ofNat 64 va) acc s = none

/-- An access of `n` bytes at `va`, in one page, that translation takes to a physical address `p` outside RAM, with the entry `up`
to write back: of a well-formed machine, with no TLB entry for the access, or without translation and the TLB as every run leaves it. -/
structure LandsOutside (s : State) (va n : Nat) (acc : Access) (p : Nat) (up : Option (Nat × Word)) : Prop where
  wf : s.cfg.wf = true
  width : va < 2 ^ 64
  onePage : va % 4096 + n ≤ 4096
  walks : walk (BitVec.ofNat 64 va) acc s = .page p up
  tlb : tlbMatch (BitVec.ofNat 64 va) acc s = none ∨ (s.paging = .bare ∧ TlbOk s)
  outside : s.cfg.inRam p n = false

/-! ### Forms of the memory instructions -/

/-- A load: destination, base, offset, bytes, sign extension and length (R501-R507, R752, R753, R776, R777). -/
structure LoadForm where
  rd : RegIdx
  base : RegIdx
  off : Int
  bytes : Nat
  signed : Bool
  len : Nat
deriving DecidableEq, Repr

/-- The loads. -/
def loadForm : Instr → Option LoadForm
  | .lb rd rs1 imm => some ⟨rd, rs1, imm.toInt, 1, true, 4⟩
  | .lh rd rs1 imm => some ⟨rd, rs1, imm.toInt, 2, true, 4⟩
  | .lw rd rs1 imm => some ⟨rd, rs1, imm.toInt, 4, true, 4⟩
  | .ld rd rs1 imm => some ⟨rd, rs1, imm.toInt, 8, true, 4⟩
  | .lbu rd rs1 imm => some ⟨rd, rs1, imm.toInt, 1, false, 4⟩
  | .lhu rd rs1 imm => some ⟨rd, rs1, imm.toInt, 2, false, 4⟩
  | .lwu rd rs1 imm => some ⟨rd, rs1, imm.toInt, 4, false, 4⟩
  | .cLw rd rs1 uimm => some ⟨creg rd, creg rs1, uimm.toNat * 4, 4, true, 2⟩
  | .cLd rd rs1 uimm => some ⟨creg rd, creg rs1, uimm.toNat * 8, 8, true, 2⟩
  | .cLwsp rd uimm => some ⟨rd, 2, uimm.toNat * 4, 4, true, 2⟩
  | .cLdsp rd uimm => some ⟨rd, 2, uimm.toNat * 8, 8, true, 2⟩
  | _ => none

/-- The number a load writes to rd, from the bytes it read. -/
def LoadForm.value (f : LoadForm) (v : Nat) : Int := if f.signed then Int.bmod v (256 ^ f.bytes) else v

/-- A store: base, source, offset, bytes and length (R508-R511, R754, R755, R783, R784). -/
structure StoreForm where
  base : RegIdx
  src : RegIdx
  off : Int
  bytes : Nat
  len : Nat
deriving DecidableEq, Repr

/-- The stores. -/
def storeForm : Instr → Option StoreForm
  | .sb rs1 rs2 imm => some ⟨rs1, rs2, imm.toInt, 1, 4⟩
  | .sh rs1 rs2 imm => some ⟨rs1, rs2, imm.toInt, 2, 4⟩
  | .sw rs1 rs2 imm => some ⟨rs1, rs2, imm.toInt, 4, 4⟩
  | .sd rs1 rs2 imm => some ⟨rs1, rs2, imm.toInt, 8, 4⟩
  | .cSw rs1 rs2 uimm => some ⟨creg rs1, creg rs2, uimm.toNat * 4, 4, 2⟩
  | .cSd rs1 rs2 uimm => some ⟨creg rs1, creg rs2, uimm.toNat * 8, 8, 2⟩
  | .cSwsp rs2 uimm => some ⟨2, rs2, uimm.toNat * 4, 4, 2⟩
  | .cSdsp rs2 uimm => some ⟨2, rs2, uimm.toNat * 8, 8, 2⟩
  | _ => none

/-- A read-modify-write operation: registers, bytes and the function of the old value and the operand, each a number below
256^bytes (R614-R631). -/
structure AmoForm where
  rd : RegIdx
  rs1 : RegIdx
  rs2 : RegIdx
  bytes : Nat
  op : Nat → Nat → Nat

/-- The functions of R614-R622 on numbers of `n` bytes. -/
def signedOf (n v : Nat) : Int := Int.bmod v (256 ^ n)
def fSwap (_old b : Nat) : Nat := b
def fAdd (n old b : Nat) : Nat := (old + b) % 256 ^ n
def fMin (n old b : Nat) : Nat := if signedOf n old < signedOf n b then old else b
def fMax (n old b : Nat) : Nat := if signedOf n old > signedOf n b then old else b
def fMinu (old b : Nat) : Nat := if old < b then old else b
def fMaxu (old b : Nat) : Nat := if old > b then old else b

/-- The read-modify-write operations. -/
def amoForm : Instr → Option AmoForm
  | .amoswapW rd rs1 rs2 _ _ => some ⟨rd, rs1, rs2, 4, fSwap⟩
  | .amoaddW rd rs1 rs2 _ _ => some ⟨rd, rs1, rs2, 4, fAdd 4⟩
  | .amoxorW rd rs1 rs2 _ _ => some ⟨rd, rs1, rs2, 4, fun a b => a ^^^ b⟩
  | .amoandW rd rs1 rs2 _ _ => some ⟨rd, rs1, rs2, 4, fun a b => a &&& b⟩
  | .amoorW rd rs1 rs2 _ _ => some ⟨rd, rs1, rs2, 4, fun a b => a ||| b⟩
  | .amominW rd rs1 rs2 _ _ => some ⟨rd, rs1, rs2, 4, fMin 4⟩
  | .amomaxW rd rs1 rs2 _ _ => some ⟨rd, rs1, rs2, 4, fMax 4⟩
  | .amominuW rd rs1 rs2 _ _ => some ⟨rd, rs1, rs2, 4, fMinu⟩
  | .amomaxuW rd rs1 rs2 _ _ => some ⟨rd, rs1, rs2, 4, fMaxu⟩
  | .amoswapD rd rs1 rs2 _ _ => some ⟨rd, rs1, rs2, 8, fSwap⟩
  | .amoaddD rd rs1 rs2 _ _ => some ⟨rd, rs1, rs2, 8, fAdd 8⟩
  | .amoxorD rd rs1 rs2 _ _ => some ⟨rd, rs1, rs2, 8, fun a b => a ^^^ b⟩
  | .amoandD rd rs1 rs2 _ _ => some ⟨rd, rs1, rs2, 8, fun a b => a &&& b⟩
  | .amoorD rd rs1 rs2 _ _ => some ⟨rd, rs1, rs2, 8, fun a b => a ||| b⟩
  | .amominD rd rs1 rs2 _ _ => some ⟨rd, rs1, rs2, 8, fMin 8⟩
  | .amomaxD rd rs1 rs2 _ _ => some ⟨rd, rs1, rs2, 8, fMax 8⟩
  | .amominuD rd rs1 rs2 _ _ => some ⟨rd, rs1, rs2, 8, fMinu⟩
  | .amomaxuD rd rs1 rs2 _ _ => some ⟨rd, rs1, rs2, 8, fMaxu⟩
  | _ => none

/-- LR: destination, address register and bytes (R610, R612). -/
def lrForm : Instr → Option (RegIdx × RegIdx × Nat)
  | .lrW rd rs1 _ _ => some (rd, rs1, 4)
  | .lrD rd rs1 _ _ => some (rd, rs1, 8)
  | _ => none

/-- SC: destination, address register, source and bytes (R611, R613). -/
def scForm : Instr → Option (RegIdx × RegIdx × RegIdx × Nat)
  | .scW rd rs1 rs2 _ _ => some (rd, rs1, rs2, 4)
  | .scD rd rs1 rs2 _ _ => some (rd, rs1, rs2, 8)
  | _ => none

/-- The instructions that write RAM by themselves: stores, SC and AMOs. -/
def storing (i : Instr) : Bool := (storeForm i).isSome || (amoForm i).isSome || (scForm i).isSome

/-- A CSR instruction: destination, address, operation and operand (R670-R676). -/
def csrForm (s : State) : Instr → Option (RegIdx × BitVec 12 × CsrOp × Nat)
  | .csrrw rd rs1 a => some (rd, a, .swap, u s rs1)
  | .csrrs rd rs1 a => some (rd, a, .setBits, u s rs1)
  | .csrrc rd rs1 a => some (rd, a, .clearBits, u s rs1)
  | .csrrwi rd uimm a => some (rd, a, .swap, uimm.toNat)
  | .csrrsi rd uimm a => some (rd, a, .setBits, uimm.toNat)
  | .csrrci rd uimm a => some (rd, a, .clearBits, uimm.toNat)
  | _ => none

/-- Bit `i` of the post-operation value (R650). -/
def newBit (op : CsrOp) (old v : Nat) (i : Nat) : Bool :=
  match op with
  | .swap => v.testBit i
  | .setBits => old.testBit i || v.testBit i
  | .clearBits => old.testBit i && !v.testBit i

/-- Every CSR value but those of the keys `ks` is as before. -/
def OtherCsrs (s t : State) (ks : List Nat) : Prop := ∀ k, k ∉ ks → t.csrAt k = s.csrAt k

/-! ### The reference trap unit -/

/-- The low XLEN bits of a value. -/
def fit (s : State) (v : Word) : Word := s.cfg.xlen.trunc v

/-- Nothing but the CSR values, priv, pc, the run state, the paging flag and the TLB differs (R924); the paging flag is
recomputed, and the TLB is flushed whole when it changes (R108). -/
structure TrapFrame (s t : State) : Prop where
  frame : t = { s with csr := t.csr, priv := t.priv, pc := t.pc, runState := t.runState, paging := t.paging, tlb := t.tlb }
  running : t.runState = .running
  paging : t.paging = pagingOf t.priv t.ptMode
  tlb : t.tlb = if t.paging = s.paging then s.tlb else []

/-- Entry to M with cause value `cv` and the pc `target` (R921, R922). -/
structure EntersM (s t : State) (cv tval target : Word) : Prop where
  rest : TrapFrame s t
  priv : t.priv = .machine
  pc : t.pc = fit s target
  mepc : t.csrAt kMepc = fit s s.pc
  mcause : t.csrAt kMcause = fit s cv
  mtval : t.csrAt kMtval = fit s tval
  mstatus : ∀ i, i < s.cfg.xlen.bits → t.mstatusBit i =
    if i = 7 then s.mstatusBit 3
    else if i = 3 then false
    else if i = 11 then decide (s.priv ≠ .user)
    else if i = 12 then decide (s.priv = .machine)
    else s.mstatusBit i
  others : OtherCsrs s t [kMepc, kMcause, kMtval, kMstatus]

/-- Entry to S with cause value `cv` and the pc `target` (R921, R922). -/
structure EntersS (s t : State) (cv tval target : Word) : Prop where
  rest : TrapFrame s t
  priv : t.priv = .supervisor
  pc : t.pc = fit s target
  sepc : t.csrAt kSepc = fit s s.pc
  scause : t.csrAt kScause = fit s cv
  stval : t.csrAt kStval = fit s tval
  mstatus : ∀ i, i < s.cfg.xlen.bits → t.mstatusBit i =
    if i = 5 then s.mstatusBit 1
    else if i = 1 then false
    else if i = 8 then decide (s.priv = .supervisor)
    else s.mstatusBit i
  others : OtherCsrs s t [kSepc, kScause, kStval, kMstatus]

/-- The base of a trap vector: its two low bits cleared (R921). -/
def tvecBase (v : Word) : Word := BitVec.ofNat 64 (v.toNat / 4 * 4)

/-- Exception entry for cause `c` (R921, R923). -/
def EntersException (s t : State) (c : Nat) (tval : Word) : Prop :=
  if s.priv ≠ .machine ∧ (s.csrAt kMedeleg).getLsbD c = true then
    EntersS s t (BitVec.ofNat 64 c) tval (tvecBase (s.csrAt kStvec))
  else EntersM s t (BitVec.ofNat 64 c) tval (tvecBase (s.csrAt kMtvec))

/-- What the hart's raise of cause `c` gives (R910, R911): the report, or the entry of the reference trap unit. -/
def Raises (s t : State) (c : Cause) (tval : Word) : Prop :=
  match s.cfg.trapUnit with
  | .external => t = { s with runState := .faulted c tval }
  | .reference => EntersException s t c.code tval

/-- The pc of interrupt `i`: base + 4 × i when MODE is 1, else the base (R922, R923). -/
def irqTarget (tvec : Word) (i : Nat) : Word :=
  if tvec.toNat % 4 = 1 then tvecBase tvec + BitVec.ofNat 64 (4 * i) else tvecBase tvec

/-- Interrupt entry for interrupt `i` (R922). -/
def EntersInterrupt (s t : State) (i : Nat) : Prop :=
  let cv := BitVec.ofNat 64 (2 ^ (s.cfg.xlen.bits - 1) + i)
  if s.priv ≠ .machine ∧ (s.csrAt kMideleg).getLsbD i = true then
    EntersS s t cv 0 (irqTarget (s.csrAt kStvec) i)
  else EntersM s t cv 0 (irqTarget (s.csrAt kMtvec) i)

/-- An interrupt that could be taken: pending, enabled in mie, and admitted by its level (R941). -/
def IrqReady (s : State) (i : Nat) : Prop :=
  i ∈ [11, 3, 7, 9, 1, 5] ∧ s.ip.getLsbD i = true ∧ (s.csrAt kMie).getLsbD i = true ∧
    if (s.csrAt kMideleg).getLsbD i = false then s.priv ≠ .machine ∨ s.mstatusBit 3 = true
    else s.priv = .user ∨ (s.priv = .supervisor ∧ s.mstatusBit 1 = true)

/-- The place of an interrupt in the order MEI, MSI, MTI, SEI, SSI, STI (R941). -/
def irqRank : Nat → Nat
  | 11 => 0
  | 3 => 1
  | 7 => 2
  | 9 => 3
  | 1 => 4
  | _ => 5

/-- An instruction raises `c`: it answers a next state, in which nothing but the raise has happened to `m`. -/
def ExecRaises (i : Instr) (s m : State) (c : Cause) (tval : Word) : Prop := ∃ t, exec i s = .next t ∧ Raises m t c tval

/-! ### Words that are no instruction -/

/-- A 32-bit word whose slot is installed and whose other fixed bits match no instruction (R315-R318, R330, R606, R706). -/
def FailsSecondLevel (x : Xlen) (w : BitVec 32) : Prop :=
  let op5 := w.toNat / 2 ^ 2 % 2 ^ 5
  let f3 := w.toNat / 2 ^ 12 % 2 ^ 3
  let f7 := w.toNat / 2 ^ 25
  let f6 := w.toNat / 2 ^ 26
  let f5 := w.toNat / 2 ^ 27
  -- OP and OP-32: a funct7 that is not in the row of R316
  (op5 = 0b01100 ∧ (f7 ∉ [0, 1, 0x20] ∨ (f7 = 0x20 ∧ f3 ∉ [0, 5]))) ∨
  (op5 = 0b01110 ∧ (f7 ∉ [0, 1, 0x20] ∨ (f7 = 0 ∧ f3 ∉ [0, 1, 5]) ∨ (f7 = 1 ∧ f3 ∈ [1, 2, 3]) ∨ (f7 = 0x20 ∧ f3 ∉ [0, 5]))) ∨
  -- the shift-immediates: funct6, and shamt[5] when XLEN = 32; funct7 of the W forms
  (op5 = 0b00100 ∧ ((f3 = 1 ∧ f6 ≠ 0) ∨ (f3 = 5 ∧ f6 ∉ [0, 0x10]) ∨ (x = .rv32 ∧ f3 ∈ [1, 5] ∧ f7 % 2 = 1))) ∨
  (op5 = 0b00110 ∧ ((f3 = 1 ∧ f7 ≠ 0) ∨ (f3 = 5 ∧ f7 ∉ [0, 0x20]))) ∨
  -- AMO: a funct5 that is not one of the eleven, and LR with rs2 ≠ 0
  (op5 = 0b01011 ∧ (f5 ∉ [0, 1, 2, 3, 4, 8, 12, 16, 20, 24, 28] ∨ (f5 = 2 ∧ w.toNat / 2 ^ 20 % 2 ^ 5 ≠ 0))) ∨
  -- SYSTEM-PRIV: neither one of the five words nor SFENCE.VMA with rd = 0
  (op5 = 0b11100 ∧ f3 = 0 ∧ w.toNat % 4 = 3 ∧ w.toNat ∉ [0x73, 0x100073, 0x10200073, 0x30200073, 0x10500073] ∧
    ¬(f7 = 9 ∧ w.toNat / 2 ^ 7 % 2 ^ 5 = 0))

/-- The reserved compressed encodings, the all-zero word among them (R345, R785). -/
def ReservedHalf (x : Xlen) (h : BitVec 16) : Prop :=
  let quad := h.toNat % 2 ^ 2
  let f3 := h.toNat / 2 ^ 13
  let rd := h.toNat / 2 ^ 7 % 2 ^ 5
  let rs2 := h.toNat / 2 ^ 2 % 2 ^ 5
  let b12 := h.toNat / 2 ^ 12 % 2
  -- C.ADDI4SPN with nzuimm = 0; C.LWSP and C.LDSP with rd = 0; C.JR with rs1 = 0
  (quad = 0 ∧ f3 = 0 ∧ h.toNat / 2 ^ 5 % 2 ^ 8 = 0) ∨ (quad = 2 ∧ (f3 = 2 ∨ f3 = 3) ∧ rd = 0) ∨
  (quad = 2 ∧ f3 = 4 ∧ b12 = 0 ∧ rd = 0 ∧ rs2 = 0) ∨
  -- C.ADDI16SP and C.LUI with nzimm = 0; C.ADDIW with rd = 0
  (quad = 1 ∧ f3 = 3 ∧ b12 = 0 ∧ rs2 = 0) ∨ (x = .rv64 ∧ quad = 1 ∧ f3 = 1 ∧ rd = 0) ∨
  -- C.SRLI, C.SRAI and C.SLLI with shamt[5] = 1 when XLEN = 32
  (x = .rv32 ∧ b12 = 1 ∧ ((quad = 1 ∧ f3 = 4 ∧ h.toNat / 2 ^ 11 % 2 = 0) ∨ (quad = 2 ∧ f3 = 0))) ∨
  -- CA with bit 12: reserved where bit 6 is 1, and C.SUBW and C.ADDW when XLEN = 32
  (quad = 1 ∧ f3 = 4 ∧ h.toNat / 2 ^ 10 % 4 = 3 ∧ b12 = 1 ∧ (x = .rv32 ∨ h.toNat / 2 ^ 6 % 2 = 1))

/-! ### The PLIC -/

/-- Source `k` is pending and valid for delivery to context `c` (R953, R954). -/
def Candidate (p : Plic) (n c k : Nat) : Prop :=
  1 ≤ k ∧ k < n ∧ p.isPending k = true ∧ (p.enables c).getLsbD k = true ∧ (p.thresholdOf c).toNat < (p.prioOf k).toNat

/-- `a` is served before `b`: higher priority, or equal priority and a lower id (R954). -/
def Before (p : Plic) (a b : Nat) : Prop :=
  (p.prioOf b).toNat < (p.prioOf a).toNat ∨ (p.prioOf a = p.prioOf b ∧ a < b)

/-- `b` is the best candidate of context `c`, 0 for none (R954). -/
def Best (p : Plic) (n c b : Nat) : Prop :=
  (b = 0 ∧ ∀ k, ¬Candidate p n c k) ∨ (Candidate p n c b ∧ ∀ k, Candidate p n c k → k = b ∨ Before p b k)

/-- What `Select(c, keep)` leaves in claim[c] (R954): rescanning, the best candidate; keeping, the current claim unless a
candidate comes before it. -/
def Selected (p : Plic) (n c : Nat) (keep : Bool) (b : Nat) : Prop :=
  if keep = true ∧ p.claimOf c ≠ 0 then
    (b = p.claimOf c ∧ ∀ k, Candidate p n c k → ¬Before p k b) ∨
    (Candidate p n c b ∧ Before p b (p.claimOf c) ∧ ∀ k, Candidate p n c k → k = b ∨ Before p b k)
  else Best p n c b

end Sys2Proof.Spec

open Sys2Proof Sys2Proof.Machine Sys2Proof.Spec

/-! ### Encoding and decoding -/

/-- Decoding an encoded well-formed instruction gives it back, with every operand (30_encoding.md, 47_compressed.md). -/
def Obligations.DecodeOfEncode : Prop :=
  ∀ (x : Xlen) (i : Instr), i.wf x = true → decode x (encode i) = .ok i

/-- A word that decodes is the encoding of the instruction it decodes to, a well-formed one: no bit of it is ignored, and no two
words mean the same term. A 32-bit word has 11 in its low bits (R301). -/
def Obligations.EncodeOfDecode : Prop :=
  ∀ (x : Xlen) (r : Raw) (i : Instr), (∀ w, r = .full w → w.extractLsb' 0 2 = 3#2) → decode x r = .ok i →
    i.wf x = true ∧ encode i = r

/-- Words written out from the encodings of R305 and R321, one of each family, decode to the instructions they stand for. -/
def Obligations.WrittenWordsDecode : Prop :=
  -- ADDI x5, x6, -3: imm 111111111101, rs1 00110, funct3 000, rd 00101, opcode 0010011
  decode .rv32 (.full 0b11111111110100110000001010010011#32) = .ok (.addi 5 6 0xFFD) ∧
  -- JAL x1, +0x100: offset bits 20, 10:1, 11, 19:12 as R305's J row lists them
  decode .rv64 (.full 0b00010000000000000000000011101111#32) = .ok (.jal 1 0x80) ∧
  -- SW x7, 8(x6): imm[11:5] 0000000, rs2 00111, rs1 00110, funct3 010, imm[4:0] 01000, opcode 0100011
  decode .rv32 (.full 0b00000000011100110010010000100011#32) = .ok (.sw 6 7 8) ∧
  -- MULHU x5, x6, x7: funct7 0000001, funct3 011
  decode .rv64 (.full 0b00000010011100110011001010110011#32) = .ok (.mulhu 5 6 7) ∧
  -- AMOADD.W x5, x6, (x10) with aq: funct5 00000, aq 1, rl 0
  decode .rv32 (.full 0b00000100011001010010001010101111#32) = .ok (.amoaddW 5 10 6 true false) ∧
  -- CSRRSI x0, mstatus, 8: csr 001100000000, uimm 01000, funct3 110
  decode .rv64 (.full 0b00110000000001000110000001110011#32) = .ok (.csrrsi 0 8 0x300) ∧
  -- MRET
  decode .rv32 (.full 0b00110000001000000000000001110011#32) = .ok .mret ∧
  -- C.SW x9, 4(x10): funct3 110, uimm[5:3] 000, rs1' 010, uimm[2] 1, uimm[6] 0, rs2' 001, op 00
  decode .rv64 (.half 0b1100000101000100#16) = .ok (.cSw 2 1 1) ∧
  -- C.JAL with offset 2 at XLEN = 32, C.ADDIW x0 (reserved) at XLEN = 64
  decode .rv32 (.half 0b0010000000001001#16) = .ok (.cJal 1) ∧
  decode .rv64 (.half 0b0010000000001001#16) = .error .reserved

/-- The full-width table installs 123 (XLEN = 32) and 144 (XLEN = 64) of its 512 slots (R319); the compressed table 15 and 19 of
its 32 (R323), never one with low bits 11 (R320). A word raises IllegalInstruction with its own bits, and nothing else happens, where
its slot is not installed (R312), where it fails its handler's second-level check (R330, R606, R706), where it is a reserved
compressed encoding (R345, R785), and wherever it encodes no instruction of the hart (R340). -/
def Obligations.InstalledSlotsAndIllegalWords : Prop :=
  ((List.range 512).countP fun k => (slot32 .rv32 (BitVec.ofNat 9 k)).isSome) = 123 ∧
  ((List.range 512).countP fun k => (slot32 .rv64 (BitVec.ofNat 9 k)).isSome) = 144 ∧
  ((List.range 32).countP fun k => (slot16 .rv32 (BitVec.ofNat 5 k)).isSome) = 15 ∧
  ((List.range 32).countP fun k => (slot16 .rv64 (BitVec.ofNat 5 k)).isSome) = 19 ∧
  (∀ x k, k < 8 → slot16 x (BitVec.ofNat 5 (4 * k + 3)) = none) ∧
  ∀ s : State,
    let illegal (r : Raw) := ∃ t, execRaw r s = .next t ∧ Raises s t .illegalInstruction r.bits
    (∀ w, slot32 s.cfg.xlen (fid w) = none → illegal (.full w)) ∧
    (∀ h, slot16 s.cfg.xlen (cid h) = none → illegal (.half h)) ∧
    (∀ w, FailsSecondLevel s.cfg.xlen w → illegal (.full w)) ∧
    (∀ h, ReservedHalf s.cfg.xlen h → illegal (.half h)) ∧
    ∀ r, (∀ w, r = .full w → w.toNat % 4 = 3) → (∀ i, i.wf s.cfg.xlen = true → encode i ≠ r) → illegal r

/-- An instruction of the XLEN = 64 column has no meaning with XLEN = 32: its word, of 32 or of 16 bits, raises IllegalInstruction
with its own bits, and nothing else happens (R315-R318, R323, R326, R340). C.ADDIW is the exception: its word is C.JAL's (R323). -/
def Obligations.Rv64WordsAreIllegalOnRv32 : Prop :=
  (∀ (i : Instr) (s : State), s.cfg.xlen = .rv32 → i.rv64Only = true → (∀ rd imm, i ≠ .cAddiw rd imm) →
    ∃ t, execRaw (encode i) s = .next t ∧ Raises s t .illegalInstruction i.bits) ∧
  ∀ (rd : RegIdx) (imm : BitVec 6), ∃ offset, encode (.cAddiw rd imm) = encode (.cJal offset) ∧
    decode .rv32 (encode (.cAddiw rd imm)) = .ok (.cJal offset)

/-! ### One step -/

/-- A step of a running hart with no interrupt to take runs the instruction that the bytes at pc decode to. The fetch is a plain
one: pc even, untranslated, inside RAM; it changes at most the TLB. -/
def Obligations.StepRunsTheDecodedInstruction : Prop :=
  ∀ (s : State) (i : Instr) (rest : List Byte),
    s.cfg.wf = true → s.runState = .running → (s.turns = [] ∨ ∃ l, s.turns = .hart :: l) →
    boundaryInterrupt s = none → PcEven s → InWidth s.cfg.xlen s.pc → PlainRam s s.pc.toNat 4 →
    decodeBytes s.cfg.xlen ((List.range 4).map fun k => Memory.read s.mem (s.pc.toNat + k)) = .ok (i, rest) →
    ∃ tlb, step s = exec i { s with turns := s.turns.tail, tlb := tlb }

/-- Fetches of a running hart. An odd pc raises cause 0 with tval pc (R301). A fetch whose walk faults raises that fault with tval pc,
changing nothing else; one whose bytes are in the PLIC's window or in no region raises cause 1 with tval pc, the walk's write-back kept
(R209, R211, R234, R246). The bytes come from the physical address that the walk gives, after its write-back: from RAM, or as an
external region answers, a refusal being cause 1 (R206, R207). At the last two bytes of a page a 2-byte instruction is fetched alone,
whatever the next page holds; a 4-byte one fetches its second half from the next page in the same way, and faults of the second half
carry tval pc + 2, with the first half's effects kept (R215). -/
def Obligations.FetchFaultsAndPageEnds : Prop :=
  ∀ s : State, s.cfg.wf = true → s.runState = .running → s.turns = [] → boundaryInterrupt s = none →
    let a := s.pc.toNat
    let upper := (a + 2) % modulus s
    let raises (m : State) (c : Cause) (v : Nat) := ∃ t, step s = .next t ∧ Raises m t c (BitVec.ofNat 64 v)
    -- the fetch of the second half in `m`, after the first half `lo`
    let second (lo : BitVec 16) (m : State) : Prop :=
      (∀ c, WalkFaults m upper .exec c → raises m c upper) ∧
      (∀ (q : Nat) (uq : Option (Nat × Word)) (hi : BitVec 16), MappedRam m upper 2 .exec q uq →
        hi = BitVec.ofNat 16 (leNat (writeBackPte uq m).mem q 2) →
        ∃ tlb, step s = execRaw (.full (hi ++ lo)) { writeBackPte uq m with tlb := tlb }) ∧
      ∀ q uq, LandsOutside m upper 2 .exec q uq →
        match physAccess q 2 .exec 0 (writeBackPte uq m) with
        | (some hi, m') => step s = execRaw (.full (hi.setWidth 16 ++ lo)) m'
        | (none, m') => raises m' (.accessFault .exec) upper
    (s.pc.getLsbD 0 = true → raises s .instMisaligned a ∧ Cause.instMisaligned.code = 0) ∧
    (PcEven s →
      (∀ c, WalkFaults s a .exec c → raises s c a) ∧
      (∀ p up n, n = (if a % 4096 = 0xFFE then 2 else 4) → LandsOutside s a n .exec p up →
        (s.cfg.inPlic p n = true ∨ s.cfg.regionOf p n = none) →
        raises (writeBackPte up s) (.accessFault .exec) a ∧ (Cause.accessFault .exec).code = 1) ∧
      (∀ (p : Nat) (up : Option (Nat × Word)) (w : BitVec 32), a % 4096 ≠ 0xFFE → MappedRam s a 4 .exec p up →
        w = BitVec.ofNat 32 (leNat (writeBackPte up s).mem p 4) →
        ∃ tlb, step s = execRaw (if w.toNat % 4 = 3 then .full w else .half (w.setWidth 16)) { writeBackPte up s with tlb := tlb }) ∧
      (∀ p up, a % 4096 ≠ 0xFFE → LandsOutside s a 4 .exec p up →
        match physAccess p 4 .exec 0 (writeBackPte up s) with
        | (some v, m) => step s = execRaw (if v.toNat % 4 = 3 then .full (v.setWidth 32) else .half (v.setWidth 16)) m
        | (none, m) => raises m (.accessFault .exec) a) ∧
      (∀ (p : Nat) (up : Option (Nat × Word)) (lo : BitVec 16), a % 4096 = 0xFFE → MappedRam s a 2 .exec p up →
        lo = BitVec.ofNat 16 (leNat (writeBackPte up s).mem p 2) →
        (lo.toNat % 4 ≠ 3 → ∃ tlb, step s = execRaw (.half lo) { writeBackPte up s with tlb := tlb }) ∧
        (lo.toNat % 4 = 3 → ∃ m, FirstPart s m a 2 .exec 0 p up ∧ m.mem = (writeBackPte up s).mem ∧ second lo m)) ∧
      ∀ p up, a % 4096 = 0xFFE → LandsOutside s a 2 .exec p up →
        match physAccess p 2 .exec 0 (writeBackPte up s) with
        | (none, m) => raises m (.accessFault .exec) a
        | (some v, m) =>
          (v.toNat % 4 ≠ 3 → step s = execRaw (.half (v.setWidth 16)) m) ∧ (v.toNat % 4 = 3 → second (v.setWidth 16) m))

/-- Before the fetch of a running hart, the reference trap unit enters the interrupt it selects; nothing is fetched (R940, R922).
That the entry is a step of its own is the model's (log 23). With nothing to take, or with an external trap unit, the step is one
instruction: that no other agent moves where `turns` is empty is the model's choice (log 6). -/
def Obligations.InterruptsAreTakenAtBoundaries : Prop :=
  ∀ s : State, s.cfg.wf = true → s.runState = .running → s.turns = [] →
    (∀ i, s.cfg.trapUnit = .reference → selectInterrupt s = some i → ∃ t, step s = .next t ∧ EntersInterrupt s t i) ∧
    (s.cfg.trapUnit = .reference → selectInterrupt s = none → step s = runInstruction s) ∧
    (s.cfg.trapUnit = .external → step s = runInstruction s)

/-- What the reference trap unit selects is ready, M-level before S-level, and first in the order MEI, MSI, MTI, SEI, SSI, STI
within its level; it selects something whenever something is ready (R941). -/
def Obligations.InterruptSelectionOrder : Prop :=
  ∀ s : State,
    (∀ i, selectInterrupt s = some i → IrqReady s i ∧
      ∀ j, IrqReady s j → j = i ∨
        ((s.csrAt kMideleg).getLsbD i = false ∧ (s.csrAt kMideleg).getLsbD j = true) ∨
        ((s.csrAt kMideleg).getLsbD i = (s.csrAt kMideleg).getLsbD j ∧ irqRank i < irqRank j)) ∧
    (selectInterrupt s = none → ∀ j, ¬IrqReady s j) ∧
    (∀ i, s.priv = .machine → selectInterrupt s = some i → (s.csrAt kMideleg).getLsbD i = false)

/-- A configuration that is not well formed is refused, and nothing else is (R21). What `Config.wf` asks beyond R21, that an external
region's base be no higher than its end and that D9's page alignment be of the first address, is the model's (log 2). While the hart is
faulted or in the xret state it takes no step (R106, R910): that the machine is stuck with no agent left to move, and that a turn of
the hart passes by without effect, are the model's (log 14, log 6). -/
def Obligations.RefusedAndHaltedSteps : Prop :=
  ∀ s : State, ((∃ r, step s = .refused r) ↔ s.cfg.wf = false) ∧
    (s.cfg.wf = true → s.runState ≠ .running →
      (s.turns = [] → step s = .fault .hartHalted) ∧
      ∀ l, s.turns = .hart :: l → step s = .next { s with turns := l })

/-- The moves of the other agents. The platform writes ip bit 3 or 7 and nothing else (R942); the TLB loses the entries of one tag and
nothing else changes (R236); a raise of source 0 or of a source that does not exist changes nothing, and any other is `plic_raise`
of that source (R962). The external trap unit writes the CSR values that its move names, in order, then priv and pc, and the hart
runs again; the paging flag is recomputed, with a flush when it changes; pt_mode and root change only through an entry with the SATP
policy, by R668 (R911; that this is one step is the model's: log 16). With the reference trap unit such a move is none. -/
def Obligations.OtherAgentsMoves : Prop :=
  ∀ (s : State) (l : List Turn), s.cfg.wf = true →
    (∀ b, s.turns = .platformSoftware b :: l → ∃ t, step s = .next t ∧ t = { s with turns := l, ip := t.ip } ∧
      ∀ k, k < 64 → t.ip.getLsbD k = if k = 3 then b else s.ip.getLsbD k) ∧
    (∀ b, s.turns = .platformTimer b :: l → ∃ t, step s = .next t ∧ t = { s with turns := l, ip := t.ip } ∧
      ∀ k, k < 64 → t.ip.getLsbD k = if k = 7 then b else s.ip.getLsbD k) ∧
    (∀ tag, s.turns = .dropTlb tag :: l → ∃ t, step s = .next t ∧ t = { s with turns := l, tlb := t.tlb } ∧
      ∀ e, e ∈ t.tlb ↔ e ∈ s.tlb ∧ e.tag ≠ tag) ∧
    (∀ k, s.turns = .raiseSource k :: l →
      ((k = 0 ∨ s.cfg.plicSources ≤ k) → step s = .next { s with turns := l }) ∧
      (1 ≤ k → k < s.cfg.plicSources → ∃ t, plicRaise k { s with turns := l } = some t ∧ step s = .next t)) ∧
    ∀ m, s.turns = .trapUnit m :: l →
      let key (w : (BitVec 2 × Byte) × Word) := csrKey w.1.1 w.1.2
      let satp (w : (BitVec 2 × Byte) × Word) : Prop := csrPolicy s.cfg w.1.1 w.1.2 = .satp
      (s.cfg.trapUnit = .reference → step s = .next { s with turns := l }) ∧
      (s.cfg.trapUnit = .external → ∃ t, step s = .next t ∧
        t = { s with
          turns := l, csr := t.csr, priv := m.priv.getD s.priv, pc := fit s (m.pc.getD s.pc), runState := .running,
          ptMode := t.ptMode, root := t.root, paging := pagingOf (m.priv.getD s.priv) t.ptMode, tlb := t.tlb } ∧
        (∀ k, (∀ w ∈ m.csrs, key w ≠ k ∧ (satp w → k ≠ kSatp)) → t.csrAt k = s.csrAt k) ∧
        (∀ earlier w later, m.csrs = earlier ++ w :: later →
          (¬satp w → (∀ v ∈ later, key v ≠ key w ∧ (satp v → key w ≠ kSatp)) → t.csrAt (key w) = fit s w.2) ∧
          (∀ mode, satp w → (∀ v ∈ later, ¬satp v ∧ key v ≠ kSatp) → satpMode s.cfg.xlen (fit s w.2) = some mode →
            t.ptMode = mode ∧ t.root = satpRoot s.cfg.xlen (fit s w.2) ∧ t.csrAt kSatp = fit s w.2)) ∧
        ((∀ w ∈ m.csrs, ¬satp w) → t.ptMode = s.ptMode ∧ t.root = s.root) ∧
        (t.tlb = s.tlb ∨ t.tlb = []) ∧ (t.paging ≠ s.paging → t.tlb = []) ∧
        ((∀ w ∈ m.csrs, ¬satp w) → t.paging = s.paging → t.tlb = s.tlb))

/-! ### Integer computation -/

/-- ADD, SUB, ADDI, LUI and AUIPC write their result modulo 2^XLEN to rd (nothing for x0) and advance pc by 4; nothing else
changes (R400-R402, R411, R412). -/
def Obligations.AddSubUpperResults : Prop :=
  ∀ (s : State) (rd rs1 rs2 : RegIdx) (imm : BitVec 12) (imm20 : BitVec 20),
    exec (.add rd rs1 rs2) s = .next (retired s rd (u s rs1 + u s rs2) 4) ∧
    exec (.sub rd rs1 rs2) s = .next (retired s rd (u s rs1 - u s rs2) 4) ∧
    exec (.addi rd rs1 imm) s = .next (retired s rd (u s rs1 + imm.toInt) 4) ∧
    exec (.lui rd imm20) s = .next (retired s rd (imm20.toInt * 4096) 4) ∧
    exec (.auipc rd imm20) s = .next (retired s rd (s.pc.toNat + imm20.toInt * 4096) 4)

/-- The bitwise operations, and the comparisons, which write 1 or 0 (R403-R407, R414-R416, R419, R420). -/
def Obligations.BitwiseAndComparisonResults : Prop :=
  ∀ (s : State) (rd rs1 rs2 : RegIdx) (imm : BitVec 12),
    exec (.xor rd rs1 rs2) s = .next (retired s rd (u s rs1 ^^^ u s rs2 : Nat) 4) ∧
    exec (.or rd rs1 rs2) s = .next (retired s rd (u s rs1 ||| u s rs2 : Nat) 4) ∧
    exec (.and rd rs1 rs2) s = .next (retired s rd (u s rs1 &&& u s rs2 : Nat) 4) ∧
    exec (.xori rd rs1 imm) s = .next (retired s rd (u s rs1 ^^^ uImm s imm : Nat) 4) ∧
    exec (.ori rd rs1 imm) s = .next (retired s rd (u s rs1 ||| uImm s imm : Nat) 4) ∧
    exec (.andi rd rs1 imm) s = .next (retired s rd (u s rs1 &&& uImm s imm : Nat) 4) ∧
    exec (.slt rd rs1 rs2) s = .next (retired s rd (if sg s rs1 < sg s rs2 then 1 else 0) 4) ∧
    exec (.sltu rd rs1 rs2) s = .next (retired s rd (if u s rs1 < u s rs2 then 1 else 0) 4) ∧
    exec (.slti rd rs1 imm) s = .next (retired s rd (if sg s rs1 < imm.toInt then 1 else 0) 4) ∧
    exec (.sltiu rd rs1 imm) s = .next (retired s rd (if u s rs1 < uImm s imm then 1 else 0) 4)

/-- The shifts: only the low 5 or 6 bits of the amount count, and an immediate amount is below XLEN (R408-R410, R413, R417, R418,
R431). -/
def Obligations.ShiftResults : Prop :=
  ∀ (s : State) (rd rs1 rs2 : RegIdx) (shamt : BitVec 6),
    exec (.sll rd rs1 rs2) s = .next (retired s rd (u s rs1 * 2 ^ (u s rs2 % s.cfg.xlen.bits) : Nat) 4) ∧
    exec (.srl rd rs1 rs2) s = .next (retired s rd (u s rs1 / 2 ^ (u s rs2 % s.cfg.xlen.bits) : Nat) 4) ∧
    exec (.sra rd rs1 rs2) s = .next (retired s rd (sg s rs1 / 2 ^ (u s rs2 % s.cfg.xlen.bits)) 4) ∧
    (shamt.toNat < s.cfg.xlen.bits →
      exec (.slli rd rs1 shamt) s = .next (retired s rd (u s rs1 * 2 ^ shamt.toNat : Nat) 4) ∧
      exec (.srli rd rs1 shamt) s = .next (retired s rd (u s rs1 / 2 ^ shamt.toNat : Nat) 4) ∧
      exec (.srai rd rs1 shamt) s = .next (retired s rd (sg s rs1 / 2 ^ shamt.toNat) 4))

/-- The W forms, the compressed ones among them, compute on the low 32 bits and sign-extend the 32-bit result (R421-R429, R432, R759,
R770, R771). -/
def Obligations.WordFormResults : Prop :=
  ∀ (s : State) (rd rs1 rs2 : RegIdx) (c d : CRegIdx) (imm : BitVec 12) (imm6 : BitVec 6) (shamt : BitVec 5),
    s.cfg.xlen = .rv64 →
    exec (.addiw rd rs1 imm) s = .next (retired s rd (sx32 (u32 s rs1 + imm.toInt)) 4) ∧
    exec (.addw rd rs1 rs2) s = .next (retired s rd (sx32 (u32 s rs1 + u32 s rs2)) 4) ∧
    exec (.subw rd rs1 rs2) s = .next (retired s rd (sx32 (u32 s rs1 - u32 s rs2)) 4) ∧
    exec (.slliw rd rs1 shamt) s = .next (retired s rd (sx32 (u32 s rs1 * 2 ^ shamt.toNat)) 4) ∧
    exec (.srliw rd rs1 shamt) s = .next (retired s rd (sx32 (u32 s rs1 / 2 ^ shamt.toNat)) 4) ∧
    exec (.sraiw rd rs1 shamt) s = .next (retired s rd (s32 s rs1 / 2 ^ shamt.toNat) 4) ∧
    exec (.sllw rd rs1 rs2) s = .next (retired s rd (sx32 (u32 s rs1 * 2 ^ (u32 s rs2 % 32))) 4) ∧
    exec (.srlw rd rs1 rs2) s = .next (retired s rd (sx32 (u32 s rs1 / 2 ^ (u32 s rs2 % 32))) 4) ∧
    exec (.sraw rd rs1 rs2) s = .next (retired s rd (s32 s rs1 / 2 ^ (u32 s rs2 % 32)) 4) ∧
    (rd ≠ 0 → exec (.cAddiw rd imm6) s = .next (retired s rd (sx32 (u32 s rd + imm6.toInt)) 2)) ∧
    exec (.cSubw c d) s = .next (retired s (creg c) (sx32 (u32 s (creg c) - u32 s (creg d))) 2) ∧
    exec (.cAddw c d) s = .next (retired s (creg c) (sx32 (u32 s (creg c) + u32 s (creg d))) 2)

/-- MUL, MULH, MULHSU and MULHU: the halves of the exact product (R551-R554). -/
def Obligations.MultiplyResults : Prop :=
  ∀ (s : State) (rd rs1 rs2 : RegIdx),
    exec (.mul rd rs1 rs2) s = .next (retired s rd (u s rs1 * u s rs2) 4) ∧
    exec (.mulh rd rs1 rs2) s = .next (retired s rd (sg s rs1 * sg s rs2 / modulus s) 4) ∧
    exec (.mulhsu rd rs1 rs2) s = .next (retired s rd (sg s rs1 * u s rs2 / modulus s) 4) ∧
    exec (.mulhu rd rs1 rs2) s = .next (retired s rd (u s rs1 * u s rs2 / modulus s : Nat) 4)

/-- DIV, DIVU, REM and REMU, with their results for a zero divisor and for overflow, and no fault (R555-R558). -/
def Obligations.DivideResults : Prop :=
  ∀ (s : State) (rd rs1 rs2 : RegIdx),
    let overflow := sg s rs1 = -(2 ^ (s.cfg.xlen.bits - 1)) ∧ sg s rs2 = -1
    exec (.div rd rs1 rs2) s = .next (retired s rd
      (if u s rs2 = 0 then -1 else if overflow then -(2 ^ (s.cfg.xlen.bits - 1)) else (sg s rs1).tdiv (sg s rs2)) 4) ∧
    exec (.divu rd rs1 rs2) s = .next (retired s rd
      (if u s rs2 = 0 then (modulus s : Int) - 1 else (u s rs1 / u s rs2 : Nat)) 4) ∧
    exec (.rem rd rs1 rs2) s = .next (retired s rd
      (if u s rs2 = 0 then (u s rs1 : Int) else if overflow then 0
       else sg s rs1 - sg s rs2 * (sg s rs1).tdiv (sg s rs2)) 4) ∧
    exec (.remu rd rs1 rs2) s = .next (retired s rd
      (if u s rs2 = 0 then (u s rs1 : Int) else (u s rs1 % u s rs2 : Nat)) 4)

/-- The W forms of multiply and divide (R559-R564). -/
def Obligations.WordMulDivResults : Prop :=
  ∀ (s : State) (rd rs1 rs2 : RegIdx), s.cfg.xlen = .rv64 →
    let overflow := s32 s rs1 = -(2 ^ 31) ∧ s32 s rs2 = -1
    exec (.mulw rd rs1 rs2) s = .next (retired s rd (sx32 (u32 s rs1 * u32 s rs2)) 4) ∧
    exec (.divw rd rs1 rs2) s = .next (retired s rd
      (if u32 s rs2 = 0 then -1 else if overflow then -(2 ^ 31) else sx32 ((s32 s rs1).tdiv (s32 s rs2))) 4) ∧
    exec (.divuw rd rs1 rs2) s = .next (retired s rd
      (if u32 s rs2 = 0 then -1 else sx32 (u32 s rs1 / u32 s rs2 : Nat)) 4) ∧
    exec (.remw rd rs1 rs2) s = .next (retired s rd
      (if u32 s rs2 = 0 then s32 s rs1 else if overflow then 0
       else s32 s rs1 - s32 s rs2 * (s32 s rs1).tdiv (s32 s rs2)) 4) ∧
    exec (.remuw rd rs1 rs2) s = .next (retired s rd
      (if u32 s rs2 = 0 then s32 s rs1 else sx32 (u32 s rs1 % u32 s rs2 : Nat)) 4)

/-! ### Control transfer -/

/-- JAL and JALR: pc to the target, the link value to rd, nothing else; JALR reads the old x[rs1] and clears bit 0 of the target
(R450-R452). The branches change pc only: to pc + offset where the condition holds, else to pc + 4 (R453-R458). -/
def Obligations.JumpAndBranchResults : Prop :=
  ∀ (s : State) (rd rs1 rs2 : RegIdx) (off20 : BitVec 20) (offset imm : BitVec 12),
    let next (taken : Prop) [Decidable taken] := goesTo s (if taken then s.pc.toNat + 2 * offset.toInt else s.pc.toNat + 4)
    exec (.jal rd off20) s = .next (linked s rd (s.pc.toNat + 2 * off20.toInt) 4) ∧
    exec (.jalr rd rs1 imm) s = .next (linked s rd (2 * ((u s rs1 + imm.toInt) / 2)) 4) ∧
    exec (.beq rs1 rs2 offset) s = .next (next (u s rs1 = u s rs2)) ∧
    exec (.bne rs1 rs2 offset) s = .next (next (u s rs1 ≠ u s rs2)) ∧
    exec (.blt rs1 rs2 offset) s = .next (next (sg s rs1 < sg s rs2)) ∧
    exec (.bge rs1 rs2 offset) s = .next (next (sg s rs1 ≥ sg s rs2)) ∧
    exec (.bltu rs1 rs2 offset) s = .next (next (u s rs1 < u s rs2)) ∧
    exec (.bgeu rs1 rs2 offset) s = .next (next (u s rs1 ≥ u s rs2))

/-- FENCE, FENCE.I and C.NOP change only pc, whatever their operands; so does WFI in M and S (R520, R521, R704, R756). -/
def Obligations.NoOperations : Prop :=
  ∀ (s : State) (fm pred succ : BitVec 4) (rs1 rd : RegIdx) (imm : BitVec 12) (imm6 : BitVec 6),
    exec (.fence fm pred succ rs1 rd) s = .next (goesTo s (s.pc.toNat + 4)) ∧
    exec (.fenceI imm rs1 rd) s = .next (goesTo s (s.pc.toNat + 4)) ∧
    exec (.cNop imm6) s = .next (goesTo s (s.pc.toNat + 2)) ∧
    (s.priv ≠ .user → exec .wfi s = .next (goesTo s (s.pc.toNat + 4)))

/-! ### Compressed instructions -/

/-- The compressed register instructions give the result of their expansions with length 2 (R750, R751, R757, R760-R769, R775,
R779, R782). -/
def Obligations.CompressedRegisterResults : Prop :=
  ∀ (s : State) (rd rs2 : RegIdx) (c d : CRegIdx) (imm shamt : BitVec 6) (nzuimm : BitVec 8),
    (nzuimm ≠ 0 → exec (.cAddi4spn c nzuimm) s = .next (retired s (creg c) (u s 2 + nzuimm.toNat * 4) 2)) ∧
    (rd ≠ 0 → exec (.cAddi rd imm) s = .next (retired s rd (u s rd + imm.toInt) 2)) ∧
    exec (.cLi rd imm) s = .next (retired s rd imm.toInt 2) ∧
    (imm ≠ 0 → exec (.cAddi16sp imm) s = .next (retired s 2 (u s 2 + imm.toInt * 16) 2)) ∧
    (rd ≠ 2 → imm ≠ 0 → exec (.cLui rd imm) s = .next (retired s rd (imm.toInt * 4096) 2)) ∧
    (shamt.toNat < s.cfg.xlen.bits →
      exec (.cSrli c shamt) s = .next (retired s (creg c) (u s (creg c) / 2 ^ shamt.toNat : Nat) 2) ∧
      exec (.cSrai c shamt) s = .next (retired s (creg c) (sg s (creg c) / 2 ^ shamt.toNat) 2) ∧
      exec (.cSlli rd shamt) s = .next (retired s rd (u s rd * 2 ^ shamt.toNat : Nat) 2)) ∧
    exec (.cAndi c imm) s = .next (retired s (creg c) (u s (creg c) &&& uImm s imm : Nat) 2) ∧
    exec (.cSub c d) s = .next (retired s (creg c) (u s (creg c) - u s (creg d)) 2) ∧
    exec (.cXor c d) s = .next (retired s (creg c) (u s (creg c) ^^^ u s (creg d) : Nat) 2) ∧
    exec (.cOr c d) s = .next (retired s (creg c) (u s (creg c) ||| u s (creg d) : Nat) 2) ∧
    exec (.cAnd c d) s = .next (retired s (creg c) (u s (creg c) &&& u s (creg d) : Nat) 2) ∧
    (rs2 ≠ 0 → exec (.cMv rd rs2) s = .next (retired s rd (u s rs2) 2)) ∧
    (rs2 ≠ 0 → exec (.cAdd rd rs2) s = .next (retired s rd (u s rd + u s rs2) 2))

/-- The compressed jumps and branches: link value pc + 2, next instruction 2 on (R758, R772-R774, R778, R781). -/
def Obligations.CompressedControlResults : Prop :=
  ∀ (s : State) (rs1 : RegIdx) (c : CRegIdx) (offset : BitVec 11) (off8 : BitVec 8),
    (s.cfg.xlen = .rv32 → exec (.cJal offset) s = .next (linked s 1 (s.pc.toNat + 2 * offset.toInt) 2)) ∧
    exec (.cJ offset) s = .next (goesTo s (s.pc.toNat + 2 * offset.toInt)) ∧
    exec (.cBeqz c off8) s = .next (goesTo s
      (if u s (creg c) = 0 then s.pc.toNat + 2 * off8.toInt else s.pc.toNat + 2)) ∧
    exec (.cBnez c off8) s = .next (goesTo s
      (if u s (creg c) ≠ 0 then s.pc.toNat + 2 * off8.toInt else s.pc.toNat + 2)) ∧
    (rs1 ≠ 0 → exec (.cJr rs1) s = .next (goesTo s (2 * ((u s rs1 : Int) / 2)))) ∧
    (rs1 ≠ 0 → exec (.cJalr rs1) s = .next (linked s 1 (2 * ((u s rs1 : Int) / 2)) 2))

/-! ### Loads and stores -/

/-- Every load from RAM without translation, at any alignment and across page boundaries, writes the extended little-endian value
to rd; nothing else but the TLB changes, and no byte of memory (R201, R214, R500-R507). -/
def Obligations.LoadsFromRam : Prop :=
  ∀ (s : State) (i : Instr) (f : LoadForm), loadForm i = some f → i.wf s.cfg.xlen = true →
    PlainRam s (addr s f.base f.off) f.bytes →
    ∃ tlb, exec i s = .next { retired s f.rd (f.value (leNat s.mem (addr s f.base f.off) f.bytes)) f.len with tlb := tlb }

/-- Every store to RAM without translation writes the low bytes of its source, little-endian, at the effective address and no
other byte; then the reservation follows R602. Besides these, pc, the TLB and the model's free counter nothing changes
(R201, R214, R500, R508-R511). -/
def Obligations.StoresToRam : Prop :=
  ∀ (s : State) (i : Instr) (f : StoreForm), storeForm i = some f → i.wf s.cfg.xlen = true →
    PlainRam s (addr s f.base f.off) f.bytes →
    ∃ t, exec i s = .next t ∧ Stored s.mem t.mem (addr s f.base f.off) f.bytes (u s f.src) ∧ ResvAfterStore s t ∧
      t = { goesTo s (s.pc.toNat + f.len) with mem := t.mem, tlb := t.tlb, resv := t.resv, free := t.free }

/-- A load through the page tables reads, and a store writes, at the physical address that the walk gives, after the accessed (and for
a store the dirty) bit is written back (R211, R228). One whose walk faults raises that fault with the effective address as tval,
and changes nothing else (R211, R234). The access lies in one page. -/
def Obligations.TranslatedLoadsAndStores : Prop :=
  ∀ (s : State) (i : Instr) (p : Nat) (up : Option (Nat × Word)), i.wf s.cfg.xlen = true →
    (∀ f, loadForm i = some f →
      let va := addr s f.base f.off
      (MappedRam s va f.bytes .read p up →
        ∃ tlb, exec i s = .next
          { retired (writeBackPte up s) f.rd (f.value (leNat (writeBackPte up s).mem p f.bytes)) f.len with tlb := tlb }) ∧
      ∀ c, va % 4096 + f.bytes ≤ 4096 → WalkFaults s va .read c → ExecRaises i s s c (BitVec.ofNat 64 va)) ∧
    ∀ f, storeForm i = some f →
      let va := addr s f.base f.off
      (MappedRam s va f.bytes .write p up →
        ∃ t, exec i s = .next t ∧ Stored (writeBackPte up s).mem t.mem p f.bytes (u s f.src) ∧ ResvAfterStore s t ∧
          t = { goesTo s (s.pc.toNat + f.len) with mem := t.mem, tlb := t.tlb, resv := t.resv, free := t.free }) ∧
      ∀ c, va % 4096 + f.bytes ≤ 4096 → WalkFaults s va .write c → ExecRaises i s s c (BitVec.ofNat 64 va)

/-- A load or store that crosses a page boundary makes two accesses, the lower first (R210), with or without translation. A fault of
the lower part's walk has the effective address as tval, and nothing else happens; a fault of its access to no region, to the PLIC's
window or to a device does too, and keeps the walk's write-back (R209, R211). Else the lower part is done, with its write-back and its
fill, in the state `m`: a store's lower bytes stay written (R913). A fault of the upper part's walk or of its access then has the
upper part's first address as tval, with rd and everything else as that part leaves it (R211, R213); where the upper part succeeds,
the load's value is that of both parts, and the store's upper bytes are written too. -/
def Obligations.PageCrossingLoadsAndStores : Prop :=
  ∀ (s : State) (i : Instr), i.wf s.cfg.xlen = true →
    (∀ f, loadForm i = some f →
      let va := addr s f.base f.off
      let k := 4096 - va % 4096
      let l := f.bytes - k
      let upper := (va + k) % modulus s
      -- the upper part in `m`, after the lower part's bytes `lo`
      let rest (lo : Nat) (m : State) : Prop :=
        (∀ c, WalkFaults m upper .read c → ExecRaises i s m c (BitVec.ofNat 64 upper)) ∧
        (∀ q uq, MappedRam m upper l .read q uq → ∃ tlb, exec i s = .next
          { retired (writeBackPte uq m) f.rd (f.value (lo + 256 ^ k * leNat (writeBackPte uq m).mem q l)) f.len with tlb := tlb }) ∧
        ∀ q uq, LandsOutside m upper l .read q uq →
          match physAccess q l .read 0 (writeBackPte uq m) with
          | (some hi, m') => exec i s = .next (retired m' f.rd (f.value (lo + 256 ^ k * hi.toNat)) f.len)
          | (none, m') => ExecRaises i s m' (.accessFault .read) (BitVec.ofNat 64 upper)
      k < f.bytes →
      (∀ c, WalkFaults s va .read c → ExecRaises i s s c (BitVec.ofNat 64 va)) ∧
      (∀ p up, MappedRam s va k .read p up → ∃ m, FirstPart s m va k .read 0 p up ∧ m.mem = (writeBackPte up s).mem ∧
        rest (leNat m.mem p k) m) ∧
      ∀ p up, LandsOutside s va k .read p up →
        match physAccess p k .read 0 (writeBackPte up s) with
        | (some lo, m) => rest lo.toNat m
        | (none, m) => ExecRaises i s m (.accessFault .read) (BitVec.ofNat 64 va)) ∧
    ∀ f, storeForm i = some f →
      let va := addr s f.base f.off
      let k := 4096 - va % 4096
      let l := f.bytes - k
      let upper := (va + k) % modulus s
      -- the upper part in `m`
      let rest (m : State) : Prop :=
        (∀ c, WalkFaults m upper .write c → ExecRaises i s m c (BitVec.ofNat 64 upper)) ∧
        (∀ q uq, MappedRam m upper l .write q uq →
          ∃ t, exec i s = .next t ∧ Stored (writeBackPte uq m).mem t.mem q l (u s f.src / 256 ^ k) ∧ ResvAfterStore s t ∧
            t = { goesTo m (s.pc.toNat + f.len) with mem := t.mem, tlb := t.tlb, resv := t.resv, free := t.free }) ∧
        ∀ q uq, LandsOutside m upper l .write q uq →
          match physAccess q l .write (s.x f.src >>> (8 * k)) (writeBackPte uq m) with
          | (some _, m') => ∃ t, exec i s = .next t ∧ ResvAfterStore s t ∧
              t = { goesTo m' (s.pc.toNat + f.len) with resv := t.resv, free := t.free }
          | (none, m') => ExecRaises i s m' (.accessFault .write) (BitVec.ofNat 64 upper)
      k < f.bytes →
      (∀ c, WalkFaults s va .write c → ExecRaises i s s c (BitVec.ofNat 64 va)) ∧
      (∀ p up, MappedRam s va k .write p up → ∃ m, FirstPart s m va k .write (s.x f.src) p up ∧
        Stored (writeBackPte up s).mem m.mem p k (u s f.src) ∧ rest m) ∧
      ∀ p up, LandsOutside s va k .write p up →
        match physAccess p k .write (s.x f.src) (writeBackPte up s) with
        | (some _, m) => rest m
        | (none, m) => ExecRaises i s m (.accessFault .write) (BitVec.ofNat 64 va)

/-- A load or store whose physical address lies in no region, with or without translation, raises the access fault of its type,
cause 5 or 7, with the effective address as tval, and changes nothing else but what the walk writes back (R206, R209, R211, R228,
R500). The access lies in one page. -/
def Obligations.AccessesOutsideEveryRegionFault : Prop :=
  ∀ (s : State) (i : Instr) (p n : Nat) (up : Option (Nat × Word)), i.wf s.cfg.xlen = true →
    s.cfg.inPlic p n = false → s.cfg.regionOf p n = none →
    (∀ f, loadForm i = some f → n = f.bytes →
      let va := addr s f.base f.off
      LandsOutside s va n .read p up →
      ExecRaises i s (writeBackPte up s) (.accessFault .read) (BitVec.ofNat 64 va) ∧ (Cause.accessFault .read).code = 5) ∧
    ∀ f, storeForm i = some f → n = f.bytes →
      let va := addr s f.base f.off
      LandsOutside s va n .write p up →
      ExecRaises i s (writeBackPte up s) (.accessFault .write) (BitVec.ofNat 64 va) ∧ (Cause.accessFault .write).code = 7

/-- A load or store whose physical address lies in the PLIC's window, with or without translation, is the window access at its offset
(R206, R519), after the walk's write-back and with no TLB fill (R228, R231): a rejected one raises the access fault of its type with
the effective address as tval and changes nothing else; an accepted load writes the value read to rd, an accepted store is followed by
R602. -/
def Obligations.LoadsAndStoresReachThePlic : Prop :=
  ∀ (s : State) (i : Instr) (p n : Nat) (up : Option (Nat × Word)), i.wf s.cfg.xlen = true → s.cfg.inPlic p n = true →
    let w := writeBackPte up s
    (∀ f, loadForm i = some f → n = f.bytes →
      let va := addr s f.base f.off
      LandsOutside s va n .read p up →
      match plicAccess (p - s.cfg.plicBase) n .read 0 w with
      | (some v, m) => exec i s = .next (retired m f.rd (f.value v.toNat) f.len)
      | (none, m) => m = w ∧ ExecRaises i s m (.accessFault .read) (BitVec.ofNat 64 va)) ∧
    ∀ f, storeForm i = some f → n = f.bytes →
      let va := addr s f.base f.off
      LandsOutside s va n .write p up →
      match plicAccess (p - s.cfg.plicBase) n .write (s.x f.src) w with
      | (some _, m) => ∃ t, exec i s = .next t ∧ ResvAfterStore m t ∧
          t = { goesTo m (s.pc.toNat + f.len) with resv := t.resv, free := t.free }
      | (none, m) => m = w ∧ ExecRaises i s m (.accessFault .write) (BitVec.ofNat 64 va)

/-- Accesses outside RAM reach the PLIC's window or an external region. A request to a device carries the offset from the region's
base, the size and the access type as they are and, for a write, the bytes; it is recorded, and without a callback it changes nothing
else but the model's free counter; a value read has the size asked for (R12, R206, R208). A load or store at an external region is one
such request, at the physical address, after the walk's write-back and with no TLB fill (R228, R231): where the device refuses it raises
the access fault of its type with the effective address as tval, with rd unwritten; else the load writes the reply to rd and the store
is followed by R602 (R207). LR, SC and the AMOs reach the window and the devices too: an AMO is a device read and then a device write,
and where either fails it raises the store access fault, with rd unwritten and the read's effects kept (R605, R607). What a device
answers is free (log 13). -/
def Obligations.AccessesReachDevices : Prop :=
  ∀ (s : State) (i : Instr) (p n : Nat) (up : Option (Nat × Word)), i.wf s.cfg.xlen = true → n ≤ 8 → s.cfg.inRam p n = false →
    let w := writeBackPte up s
    (∀ r acc data, s.cfg.inPlic p n = false → s.cfg.regionOf p n = some r →
      let q : DeviceRequest := ⟨r, p - r.base, n, acc, if acc = .write then BitVec.ofNat 64 (data.toNat % 256 ^ n) else 0⟩
      physAccess p n acc data s = deviceAccess q s ∧ (deviceAccess q s).2.requests = q :: s.requests ∧
      (∀ v, (deviceAccess q s).1 = some v → v.toNat < 256 ^ n) ∧
      (s.callbacks = [] → (deviceAccess q s).2 = { s with requests := q :: s.requests, free := (deviceAccess q s).2.free })) ∧
    (∀ acc data, s.cfg.inPlic p n = true → physAccess p n acc data s = plicAccess (p - s.cfg.plicBase) n acc data s) ∧
    (∀ f, loadForm i = some f → n = f.bytes →
      let va := addr s f.base f.off
      LandsOutside s va n .read p up →
      match physAccess p n .read 0 w with
      | (some v, m) => exec i s = .next (retired m f.rd (f.value v.toNat) f.len)
      | (none, m) => ExecRaises i s m (.accessFault .read) (BitVec.ofNat 64 va)) ∧
    (∀ f, storeForm i = some f → n = f.bytes →
      let va := addr s f.base f.off
      LandsOutside s va n .write p up →
      match physAccess p n .write (s.x f.src) w with
      | (some _, m) => ∃ t, exec i s = .next t ∧ ResvAfterStore m t ∧
          t = { goesTo m (s.pc.toNat + f.len) with resv := t.resv, free := t.free }
      | (none, m) => ExecRaises i s m (.accessFault .write) (BitVec.ofNat 64 va)) ∧
    (∀ rd rs1, lrForm i = some (rd, rs1, n) → u s rs1 % n = 0 → LandsOutside s (u s rs1) n .read p up →
      match physAccess p n .read 0 w with
      | (some v, m) => exec i s = .next { retired m rd (Int.bmod v.toNat (256 ^ n)) 4 with resv := true }
      | (none, m) => ExecRaises i s m (.accessFault .read) (BitVec.ofNat 64 (u s rs1))) ∧
    (∀ rd rs1 rs2, scForm i = some (rd, rs1, rs2, n) → u s rs1 % n = 0 → s.resv = true →
      LandsOutside s (u s rs1) n .write p up →
      match physAccess p n .write (s.x rs2) w with
      | (some _, m) => exec i s = .next { retired m rd 0 4 with resv := false }
      | (none, m) =>
        ∃ b free, ExecRaises i s { m with resv := b, free := free } (.accessFault .write) (BitVec.ofNat 64 (u s rs1))) ∧
    ∀ f, amoForm i = some f → n = f.bytes → u s f.rs1 % n = 0 →
      let va : Word := BitVec.ofNat 64 (u s f.rs1)
      LandsOutside s (u s f.rs1) n .write p up →
      match physAccess p n .read 0 w with
      | (none, m) => ExecRaises i s m (.accessFault .write) va
      | (some old, m) =>
        match physAccess p n .write (BitVec.ofNat 64 (f.op old.toNat (u s f.rs2 % 256 ^ n))) m with
        | (none, m') => ExecRaises i s m' (.accessFault .write) va
        | (some _, m') => ∃ t, exec i s = .next t ∧ ResvAfterStore m' t ∧
            t = { retired m' f.rd (Int.bmod old.toNat (256 ^ n)) 4 with resv := t.resv, free := t.free }

/-! ### Atomics -/

/-- LR reads like a load and sets the reservation; nothing else but rd, pc and the TLB changes (R601, R610, R612). SC, with the
reservation, writes and answers 0, at any address and width; without, it answers 1 and makes no access. It clears the reservation
either way (R601, R609, R611, R613). Through the page tables both use the physical address that the walk gives, after its write-back;
LR walks for a read, SC for a write (R605, R607). -/
def Obligations.LoadReservedStoreConditional : Prop :=
  ∀ (s : State) (i : Instr) (n : Nat), i.wf s.cfg.xlen = true →
    (∀ rd rs1, lrForm i = some (rd, rs1, n) → u s rs1 % n = 0 →
      (PlainRam s (u s rs1) n → ∃ tlb, exec i s = .next
        { retired s rd (Int.bmod (leNat s.mem (u s rs1) n) (256 ^ n)) 4 with resv := true, tlb := tlb }) ∧
      ∀ p up, MappedRam s (u s rs1) n .read p up → ∃ tlb, exec i s = .next
        { retired (writeBackPte up s) rd (Int.bmod (leNat (writeBackPte up s).mem p n) (256 ^ n)) 4 with
          resv := true, tlb := tlb }) ∧
    ∀ rd rs1 rs2, scForm i = some (rd, rs1, rs2, n) → u s rs1 % n = 0 →
      (s.resv = false → exec i s = .next { retired s rd 1 4 with resv := false }) ∧
      (s.resv = true → PlainRam s (u s rs1) n →
        ∃ t, exec i s = .next t ∧ Stored s.mem t.mem (u s rs1) n (u s rs2) ∧
          t = { retired s rd 0 4 with resv := false, mem := t.mem, tlb := t.tlb }) ∧
      ∀ p up, s.resv = true → MappedRam s (u s rs1) n .write p up →
        ∃ t, exec i s = .next t ∧ Stored (writeBackPte up s).mem t.mem p n (u s rs2) ∧
          t = { retired s rd 0 4 with resv := false, mem := t.mem, tlb := t.tlb }

/-- An AMO reads, computes and writes at one address; rd receives the old value, sign-extended for .W; no other byte changes
(R608, R614-R632), and the reservation follows R602. Through the page tables one walk for a write gives the physical address, after its
write-back (R605). -/
def Obligations.AmoResults : Prop :=
  ∀ (s : State) (i : Instr) (f : AmoForm), amoForm i = some f → i.wf s.cfg.xlen = true → u s f.rs1 % f.bytes = 0 →
    let result (m : Memory) (p : Nat) :=
      let old := leNat m p f.bytes
      ∃ t, exec i s = .next t ∧ ResvAfterStore s t ∧
        Stored m t.mem p f.bytes (f.op old (u s f.rs2 % 256 ^ f.bytes)) ∧
        t = { retired s f.rd (Int.bmod old (256 ^ f.bytes)) 4 with mem := t.mem, tlb := t.tlb, resv := t.resv, free := t.free }
    (PlainRam s (u s f.rs1) f.bytes → result s.mem (u s f.rs1)) ∧
    ∀ p up, MappedRam s (u s f.rs1) f.bytes .write p up → result (writeBackPte up s).mem p

/-- A misaligned LR raises cause 4 and a misaligned SC or AMO cause 6, with the address as tval, before any translation or access
(R604). An aligned one whose physical address no region holds raises the load access fault (5) for LR and the store access fault (7)
for SC with the reservation and for an AMO, though an AMO fails in its read, and keeps what the walk writes back; one whose walk faults
raises the walk's fault, LR walking for a read and the others for a write; rd, all other memory and, but for SC, the reservation are
unchanged (R211, R605). -/
def Obligations.AtomicFaults : Prop :=
  ∀ (s : State) (i : Instr) (n p : Nat) (up : Option (Nat × Word)), i.wf s.cfg.xlen = true →
    let w := writeBackPte up s
    let nowhere (a : Nat) (acc : Access) :=
      a % n = 0 ∧ LandsOutside s a n acc p up ∧ s.cfg.inPlic p n = false ∧ s.cfg.regionOf p n = none
    (∀ rd rs1, lrForm i = some (rd, rs1, n) →
      let a := u s rs1
      let raises (m : State) (c : Cause) := ExecRaises i s m c (BitVec.ofNat 64 a)
      (a % n ≠ 0 → raises s .loadMisaligned) ∧ (nowhere a .read → raises w (.accessFault .read)) ∧
      ∀ c, a % n = 0 → WalkFaults s a .read c → raises s c) ∧
    (∀ rd rs1 rs2, scForm i = some (rd, rs1, rs2, n) →
      let a := u s rs1
      let raises (m : State) (c : Cause) := ∃ b free, ExecRaises i s { m with resv := b, free := free } c (BitVec.ofNat 64 a)
      (a % n ≠ 0 → ExecRaises i s s .storeMisaligned (BitVec.ofNat 64 a)) ∧
      (nowhere a .write → s.resv = true → raises w (.accessFault .write)) ∧
      ∀ c, a % n = 0 → s.resv = true → WalkFaults s a .write c → raises s c) ∧
    (∀ f, amoForm i = some f → n = f.bytes →
      let a := u s f.rs1
      let raises (m : State) (c : Cause) := ExecRaises i s m c (BitVec.ofNat 64 a)
      (a % n ≠ 0 → raises s .storeMisaligned) ∧ (nowhere a .write → raises w (.accessFault .write)) ∧
      ∀ c, a % n = 0 → WalkFaults s a .write c → raises s c) ∧
    Cause.loadMisaligned.code = 4 ∧ Cause.storeMisaligned.code = 6 ∧
    (Cause.accessFault .read).code = 5 ∧ (Cause.accessFault .write).code = 7

/-! ### CSR instructions -/

/-- A CSR instruction on a generic read-write entry, at sufficient privilege, completes: rd receives the old value, the entry the
post-operation value, and nothing else changes (R650, R659, R676). -/
def Obligations.ReadWriteCsrAccess : Prop :=
  ∀ (s : State) (i : Instr) (rd : RegIdx) (a : BitVec 12) (op : CsrOp) (v : Nat),
    csrForm s i = some (rd, a, op, v) → WidthOk s → (a.extractLsb' 8 2).toNat ≤ s.priv.code →
    csrPolicy s.cfg (a.extractLsb' 8 2) (a.extractLsb' 0 8) = .rw →
    let k := csrKey (a.extractLsb' 8 2) (a.extractLsb' 0 8)
    ∃ t, exec i s = .next t ∧ t = { retired s rd (s.csrAt k).toNat 4 with csr := t.csr } ∧ OtherCsrs s t [k] ∧
      ∀ j, j < s.cfg.xlen.bits → (t.csrAt k).getLsbD j = newBit op (s.csrAt k).toNat v j

/-- A CSR instruction on a generic read-only entry completes exactly where it would not change the entry, and then changes only
rd and pc; else, and on an illegal or unlisted entry, and below the bank's privilege whatever the policy, it raises
IllegalInstruction with its own word as tval and changes nothing else (R125, R660-R663). -/
def Obligations.RejectedCsrAccess : Prop :=
  ∀ (s : State) (i : Instr) (rd : RegIdx) (a : BitVec 12) (op : CsrOp) (v : Nat),
    csrForm s i = some (rd, a, op, v) → WidthOk s →
    let k := csrKey (a.extractLsb' 8 2) (a.extractLsb' 0 8)
    let pol := csrPolicy s.cfg (a.extractLsb' 8 2) (a.extractLsb' 0 8)
    let rejects := ∃ t, exec i s = .next t ∧ Raises s t .illegalInstruction i.bits
    let unchanged := ∀ j, j < s.cfg.xlen.bits → newBit op (s.csrAt k).toNat v j = (s.csrAt k).getLsbD j
    (s.priv.code < (a.extractLsb' 8 2).toNat → rejects) ∧
    (pol = .ill → rejects) ∧
    ((∀ e ∈ s.cfg.csrConfig, ¬(e.bank = a.extractLsb' 8 2 ∧ e.id = a.extractLsb' 0 8)) → rejects) ∧
    (pol = .ro → ¬unchanged → rejects) ∧
    (pol = .ro → unchanged → (a.extractLsb' 8 2).toNat ≤ s.priv.code →
      exec i s = .next (retired s rd (s.csrAt k).toNat 4))

/-- In the reference `CSR_CONFIG` sstatus shows and writes exactly the bits SIE, SPIE, SPP, SUM, MXR (and UXL) of mstatus, sie bits
1, 5 and 9 of mie; mip shows ip and writes bits 1, 5 and 9; sip shows bits 1, 5 and 9 of ip and writes bit 1 (R130, R664,
R666). -/
def Obligations.ViewsOfTheReferenceCsrs : Prop :=
  ∀ (s : State) (i : Instr) (rd : RegIdx) (a : BitVec 12) (op : CsrOp) (v : Nat),
    csrForm s i = some (rd, a, op, v) → WidthOk s → ReferenceCsrs s → (a.extractLsb' 8 2).toNat ≤ s.priv.code →
    let shown (k : Nat) (rbits wbits : Nat → Bool) :=
      ∃ (t : State) (old : Nat), exec i s = .next t ∧ t = { retired s rd old 4 with csr := t.csr } ∧ OtherCsrs s t [k] ∧
        (∀ j, old.testBit j = (rbits j && (s.csrAt k).getLsbD j)) ∧
        ∀ j, j < s.cfg.xlen.bits →
          (t.csrAt k).getLsbD j = if wbits j then newBit op old v j else (s.csrAt k).getLsbD j
    let shownIp (rbits wbits : Nat → Bool) :=
      ∃ (t : State) (old : Nat), exec i s = .next t ∧ t = { retired s rd old 4 with ip := t.ip } ∧
        (∀ j, old.testBit j = (rbits j && s.ip.getLsbD j)) ∧
        ∀ j, j < s.cfg.xlen.bits →
          t.ip.getLsbD j = if wbits j then newBit op old v j else s.ip.getLsbD j
    let statusBits := fun j => j == 1 || j == 5 || j == 8 || j == 18 || j == 19 ||
      (s.cfg.xlen == .rv64 && (j == 32 || j == 33))
    let supervisorBits := fun j => j == 1 || j == 5 || j == 9
    (a.extractLsb' 0 10 = 0x100 → shown kMstatus statusBits statusBits) ∧
    (a.extractLsb' 0 10 = 0x104 → shown kMie supervisorBits supervisorBits) ∧
    (a.extractLsb' 0 10 = 0x344 → shownIp (fun j => j < s.cfg.xlen.bits) supervisorBits) ∧
    (a.extractLsb' 0 10 = 0x144 → shownIp supervisorBits (fun j => j == 1))

/-- A CSR instruction on satp: a supported MODE is committed, with pt_mode and root mirrored, the paging flag recomputed and the
TLB flushed exactly when the flag changes; an unsupported MODE changes nothing but rd and pc (R107, R108, R667, R668). -/
def Obligations.SatpWrites : Prop :=
  ∀ (s : State) (i : Instr) (rd : RegIdx) (a : BitVec 12) (op : CsrOp) (v : Nat),
    csrForm s i = some (rd, a, op, v) → WidthOk s → ReferenceCsrs s → a.extractLsb' 0 10 = 0x180 → 1 ≤ s.priv.code →
    ∃ t new, exec i s = .next t ∧ new < modulus s ∧
      (∀ j, j < s.cfg.xlen.bits → new.testBit j = newBit op (s.csrAt kSatp).toNat v j) ∧
      let mode := match s.cfg.xlen with
        | .rv32 => if new / 2 ^ 31 = 1 then some PtMode.sv32 else some .bare
        | .rv64 => if new / 2 ^ 60 = 0 then some .bare else if new / 2 ^ 60 = 8 then some .sv39
          else if new / 2 ^ 60 = 9 then some .sv48 else none
      match mode with
      | none => t = retired s rd (s.csrAt kSatp).toNat 4
      | some m =>
        t = { retired s rd (s.csrAt kSatp).toNat 4 with
              csr := t.csr, ptMode := m, root := new % (match s.cfg.xlen with | .rv32 => 2 ^ 22 | .rv64 => 2 ^ 44) * 4096,
              paging := pagingOf s.priv m, tlb := if pagingOf s.priv m = s.paging then s.tlb else [] } ∧
        t.csrAt kSatp = BitVec.ofNat 64 new ∧ OtherCsrs s t [kSatp]

/-! ### System instructions, traps and returns -/

/-- ECALL raises cause 8, 9 or 11 by privilege with tval 0; EBREAK and C.EBREAK raise cause 3 with tval pc; nothing else happens
(R700, R701, R780). -/
def Obligations.EnvironmentCallsAndBreakpoints : Prop :=
  ∀ s : State,
    (∃ t, exec .ecall s = .next t ∧ Raises s t (.ecall s.priv) 0 ∧
      (Cause.ecall s.priv).code = match s.priv with | .user => 8 | .supervisor => 9 | .machine => 11) ∧
    (∃ t, exec .ebreak s = .next t ∧ Raises s t .breakpoint s.pc) ∧
    (∃ t, exec .cEbreak s = .next t ∧ Raises s t .breakpoint s.pc) ∧ Cause.breakpoint.code = 3

/-- What a raise does, for every cause and tval. With an external trap unit it sets the run state and writes nothing else (R910). The
reference trap unit enters the handler in the same step: target by medeleg, saved registers, status, priv, pc, run state and paging
flag as R921 and R923 say, and nothing else changes (R911, R924). The number of each cause is that of R901. -/
def Obligations.FaultReportAndExceptionEntry : Prop :=
  (∀ (s : State) (c : Cause) (tval : Word), Raises s (raise c tval s) c tval) ∧
  ∀ c : Cause, c.code = match c with
    | .instMisaligned => 0
    | .accessFault .exec => 1
    | .illegalInstruction => 2
    | .breakpoint => 3
    | .loadMisaligned => 4
    | .accessFault .read => 5
    | .storeMisaligned => 6
    | .accessFault .write => 7
    | .ecall .user => 8
    | .ecall .supervisor => 9
    | .ecall .machine => 11
    | .pageFault .exec => 12
    | .pageFault .read => 13
    | .pageFault .write => 15

/-- MRET in M, SRET in S and M: the xRET request with an external trap unit (R702, R703). The reference trap unit completes it in the
same step: MRET takes priv from MPP, MIE from MPIE and pc from mepc, sets MPIE and clears MPP (MPP = 2 is an illegal instruction);
SRET takes priv from SPP, SIE from SPIE and pc from sepc, sets SPIE and clears SPP (R931, R932). Below those modes they are
illegal instructions. -/
def Obligations.TrapReturns : Prop :=
  ∀ s : State,
    (s.priv ≠ .machine → ∃ t, exec .mret s = .next t ∧ Raises s t .illegalInstruction 0x30200073) ∧
    (s.priv = .machine → s.cfg.trapUnit = .external → exec .mret s = .next { s with runState := .xret .m }) ∧
    (s.priv = .machine → s.cfg.trapUnit = .reference → s.mstatusBit 12 = true → s.mstatusBit 11 = false →
      ∃ t, exec .mret s = .next t ∧ EntersException s t 2 0x30200073) ∧
    (s.priv = .machine → s.cfg.trapUnit = .reference → (s.mstatusBit 12 = true → s.mstatusBit 11 = true) →
      ∃ t, exec .mret s = .next t ∧ TrapFrame s t ∧ OtherCsrs s t [kMstatus] ∧
        t.priv = (if s.mstatusBit 12 then .machine else if s.mstatusBit 11 then .supervisor else .user) ∧
        t.pc = fit s (BitVec.ofNat 64 ((s.csrAt kMepc).toNat / 2 * 2)) ∧
        ∀ j, j < s.cfg.xlen.bits → t.mstatusBit j =
          if j = 3 then s.mstatusBit 7 else if j = 7 then true else if j = 11 ∨ j = 12 then false else s.mstatusBit j) ∧
    (s.priv = .user → ∃ t, exec .sret s = .next t ∧ Raises s t .illegalInstruction 0x10200073) ∧
    (s.priv ≠ .user → s.cfg.trapUnit = .external → exec .sret s = .next { s with runState := .xret .s }) ∧
    (s.priv ≠ .user → s.cfg.trapUnit = .reference →
      ∃ t, exec .sret s = .next t ∧ TrapFrame s t ∧ OtherCsrs s t [kMstatus] ∧
        t.priv = (if s.mstatusBit 8 then .supervisor else .user) ∧
        t.pc = fit s (BitVec.ofNat 64 ((s.csrAt kSepc).toNat / 2 * 2)) ∧
        ∀ j, j < s.cfg.xlen.bits → t.mstatusBit j =
          if j = 1 then s.mstatusBit 5 else if j = 5 then true else if j = 8 then false else s.mstatusBit j)

/-- SFENCE.VMA in S and M empties the TLB whatever its operands, and changes nothing else but pc; WFI and SFENCE.VMA in U raise
IllegalInstruction with their own words (R238, R704, R705). -/
def Obligations.FenceAndWaitPrivilege : Prop :=
  ∀ (s : State) (rs1 rs2 : RegIdx),
    (s.priv ≠ .user → exec (.sfenceVma rs1 rs2) s = .next { goesTo s (s.pc.toNat + 4) with tlb := [] }) ∧
    (s.priv = .user →
      (∃ t, exec (.sfenceVma rs1 rs2) s = .next t ∧
        Raises s t .illegalInstruction (BitVec.ofNat 64 (0x12000073 + 2 ^ 15 * rs1.toNat + 2 ^ 20 * rs2.toNat))) ∧
      ∃ t, exec .wfi s = .next t ∧ Raises s t .illegalInstruction 0x10500073)

/-! ### Translation and the TLB -/

/-- The order of a walk's checks at one level (R221-R227): the entry outside RAM is an access fault; an invalid entry, a reserved
bit, a non-leaf with U, A or D or with no level left, a refused access and a misaligned superpage are page faults, each of the
access's type; a non-leaf leads to the next level. -/
def Obligations.WalkChecks : Prop :=
  ∀ (d : PtDesc) (va : Word) (acc : Access) (s : State) (l : LevelDesc) (below : List LevelDesc) (a : Nat),
    let ea := a + va.toNat / 2 ^ l.vpnLo % 2 ^ l.vpnWidth * d.pteSize
    let pte := leNat s.mem ea d.pteSize
    let walked := walkFrom d va acc s (l :: below) a
    d.pteSize ≤ 8 →
    (s.cfg.inRam ea d.pteSize = false → walked = .fault (.accessFault acc)) ∧
    (s.cfg.inRam ea d.pteSize = true →
      (pte.testBit 0 = false ∨ (pte.testBit 1 = false ∧ pte.testBit 2 = true) ∨ (d.pteSize = 8 ∧ pte / 2 ^ 54 ≠ 0) →
        walked = .fault (.pageFault acc)) ∧
      (pte.testBit 1 = false → pte.testBit 3 = false →
        (below = [] ∨ pte.testBit 4 = true ∨ pte.testBit 6 = true ∨ pte.testBit 7 = true) →
        walked = .fault (.pageFault acc)) ∧
      (pte.testBit 0 = true → pte.testBit 1 = false → pte.testBit 2 = false → pte.testBit 3 = false →
        pte.testBit 4 = false → pte.testBit 6 = false → pte.testBit 7 = false → (d.pteSize = 8 → pte / 2 ^ 54 = 0) →
        walked = walkFrom d va acc s below
          (pte / 2 ^ 10 % 2 ^ (if d.pteSize = 4 then 22 else 44) * 4096)) ∧
      (pte.testBit 1 = true ∨ pte.testBit 3 = true →
        ((acc = .read ∧ pte.testBit 1 = false ∧ s.mstatusBit 19 = false) ∨ (acc = .write ∧ pte.testBit 2 = false) ∨
          (acc = .exec ∧ pte.testBit 3 = false) ∨ (s.priv = .user ∧ pte.testBit 4 = false) ∨
          (s.priv = .supervisor ∧ pte.testBit 4 = true ∧ (s.mstatusBit 18 = false ∨ acc = .exec)) ∨
          ∃ m ∈ below, pte / 2 ^ m.ppnLo % 2 ^ m.ppnWidth ≠ 0) →
        walked = .fault (.pageFault acc)))

/-- A leaf that passes every check ends the walk, in each paging mode `m` at each level `i`: the page number's fields below the
leaf's level come from the address, the others from the entry (R218, R229); A, and D for a write, are written back when they are
clear and `AD_UPDATE` is on (R228). `pte` is the entry at `ea`. -/
def Obligations.LeafTranslation : Prop :=
  ∀ (m : PtMode) (va : Word) (acc : Access) (s : State) (i a levels width size : Nat),
    (levels, width, size) = (match m with | .bare => (0, 0, 0) | .sv32 => (2, 10, 4) | .sv39 => (3, 9, 8) | .sv48 => (4, 9, 8)) →
    i < levels →
    let ea := a + va.toNat / 2 ^ (12 + width * i) % 2 ^ width * size
    let pte := leNat s.mem ea size
    s.cfg.inRam ea size = true → pte.testBit 0 = true → pte / 2 ^ 54 = 0 → pte / 2 ^ 10 % 2 ^ (width * i) = 0 →
    (pte.testBit 1 = true ∨ pte.testBit 3 = true) → (pte.testBit 2 = true → pte.testBit 1 = true) →
    (match acc with
     | .read => pte.testBit 1 = true ∨ (s.mstatusBit 19 = true ∧ pte.testBit 3 = true)
     | .write => pte.testBit 2 = true
     | .exec => pte.testBit 3 = true) →
    (s.priv = .user → pte.testBit 4 = true) →
    (s.priv = .supervisor → pte.testBit 4 = true → s.mstatusBit 18 = true ∧ acc ≠ .exec) →
    walkFrom m.desc va acc s (m.desc.levels.drop (levels - 1 - i)) a =
      .page (pte / 2 ^ 10 * 4096 + va.toNat % 2 ^ (12 + width * i))
        (if s.cfg.adUpdate = true ∧ (pte.testBit 6 = false ∨ (acc = .write ∧ pte.testBit 7 = false)) then
          some (ea, BitVec.ofNat 64 (pte ||| 64 ||| if acc = .write then 128 else 0))
        else none)

/-- Every translation is a hit or a walk (R232-R234). A hit takes the page of an entry with the access's page, privilege, SUM and
MXR and its right, and changes nothing but the model's free counter; else the walk's result is used, with its write-back and its
fill, or its fault is raised with the address as tval. With an empty TLB it is the walk (R245). The walk is the identity in bare
mode (R217), and a page fault for an address that is not canonical under Sv39 or Sv48 (R220); for every other address it starts at the
table that `root` names, at the mode's highest level (R221). The levels of each mode, numbered from 0 at the last, have their fields
where R218 places them. -/
def Obligations.TranslationHitsOrWalks : Prop :=
  ∀ (va : Word) (acc : Access) (s : State),
    let hit := ∃ e ∈ s.tlb, ∃ t, e.tag = ⟨va.toNat / 4096, s.priv, s.mstatusBit 18, s.mstatusBit 19⟩ ∧ e.allows acc = true ∧
      translate va acc s = .ok (e.ppage * 4096 + va.toNat % 4096) t ∧ t = { s with free := t.free }
    let walked := ∃ n, match walk va acc s with
      | .page p up => translate va acc s = .ok p (tlbFill va acc p (writeBackPte up { s with free := n }))
      | .fault c => translate va acc s = .trap c va { s with free := n }
    (hit ∨ walked) ∧ (s.tlb = [] → walked) ∧
    (s.paging = .bare → walk va acc s = .page va.toNat none) ∧
    (s.paging = .virtual → s.ptMode = .sv39 → 2 ^ 38 ≤ va.toNat → va.toNat < 2 ^ 64 - 2 ^ 38 →
      walk va acc s = .fault (.pageFault acc)) ∧
    (s.paging = .virtual → s.ptMode = .sv48 → 2 ^ 47 ≤ va.toNat → va.toNat < 2 ^ 64 - 2 ^ 47 →
      walk va acc s = .fault (.pageFault acc)) ∧
    (s.paging = .virtual →
      (match s.ptMode with
       | .bare => False
       | .sv32 => True
       | .sv39 => va.toNat < 2 ^ 38 ∨ 2 ^ 64 - 2 ^ 38 ≤ va.toNat
       | .sv48 => va.toNat < 2 ^ 47 ∨ 2 ^ 64 - 2 ^ 47 ≤ va.toNat) →
      walk va acc s = walkFrom s.ptMode.desc va acc s s.ptMode.desc.levels s.root) ∧
    ∀ (m : PtMode) (levels width size : Nat),
      (levels, width, size) = (match m with | .bare => (0, 0, 8) | .sv32 => (2, 10, 4) | .sv39 => (3, 9, 8) | .sv48 => (4, 9, 8)) →
      m.desc.pteSize = size ∧ m.desc.levels.length = levels ∧
      ∀ i, i < levels → ∃ l, m.desc.levels[levels - 1 - i]? = some l ∧ l.vpnLo = 12 + width * i ∧ l.vpnWidth = width ∧
        l.ppnLo = 10 + width * i ∧
        l.ppnLo + l.ppnWidth = (if i + 1 < levels then 10 + width * (i + 1) else if size = 4 then 32 else 54)

/-- After a fill inside RAM the TLB holds an entry for the access's page and modes with the physical page, as the only one with its
tag: its rights are the access and those of the entry it had for the same page, if any. Other tags keep their entries. Outside RAM
the TLB is unchanged (R231). -/
def Obligations.TlbFillRecordsTheTranslation : Prop :=
  ∀ (va : Word) (acc : Access) (p : Nat) (s : State),
    let t := tlbFill va acc p s
    t = { s with tlb := t.tlb } ∧
    (s.cfg.inRam p 1 = false → t.tlb = s.tlb) ∧
    (s.cfg.inRam p 1 = true → TlbOk s → ∃ e ∈ t.tlb, e.tag = s.tlbTag va ∧ e.ppage = p / 4096 ∧
      (∀ f ∈ t.tlb, f.tag = s.tlbTag va → f = e) ∧
      (∀ f, f.tag ≠ s.tlbTag va → (f ∈ t.tlb ↔ f ∈ s.tlb)) ∧
      ∀ b, e.allows b = true ↔
        b = acc ∨ ∃ f ∈ s.tlb, f.tag = s.tlbTag va ∧ f.ppage = p / 4096 ∧ f.allows b = true)

/-! ### The PLIC -/

/-- Selection leaves the best pending and valid source in claim[c], keeping the current claim where it is asked to unless a better
candidate replaces it (R953, R954). -/
def Obligations.PlicSelection : Prop :=
  ∀ (s : State) (c : Nat) (keep : Bool),
    let t := plicSelect c keep s
    t = { s with plic := { s.plic with claim := t.plic.claim } } ∧
    Selected s.plic s.cfg.plicSources c keep (t.plic.claimOf c) ∧
    ∀ d, d ≠ c → t.plic.claimOf d = s.plic.claimOf d

/-- `plic_raise`: source 0 and sources that do not exist fail. Else the source is pending, every context has selected with keep, a
context with a claim has its line up and no line went down, and ip changes only by the raised lines (R962, R963). -/
def Obligations.PlicRaise : Prop :=
  ∀ (s : State) (k : Nat),
    ((k = 0 ∨ s.cfg.plicSources ≤ k) → plicRaise k s = none) ∧
    (1 ≤ k → k < s.cfg.plicSources → k < 1024 → ∃ t, plicRaise k s = some t ∧
      (let marked := { s.plic with pending := t.plic.pending }
       t = { s with ip := t.ip, plic := { s.plic with pending := t.plic.pending, claim := t.plic.claim, line := t.plic.line } } ∧
       (∀ j, j < 1024 → t.plic.isPending j = (j == k || s.plic.isPending j)) ∧
       (∀ c, c < s.cfg.plicContexts → Selected marked s.cfg.plicSources c true (t.plic.claimOf c) ∧
         t.plic.lineOf c = (s.plic.lineOf c || t.plic.claimOf c != 0)) ∧
       (∀ c, s.cfg.plicContexts ≤ c → t.plic.claimOf c = s.plic.claimOf c ∧ t.plic.lineOf c = s.plic.lineOf c) ∧
       ∀ b, b < 64 → (t.ip.getLsbD b = true ↔ s.ip.getLsbD b = true ∨
         ∃ c l, c < s.cfg.plicContexts ∧ ctxLine s.cfg c = some l ∧ lineBit l = b ∧ t.plic.claimOf c ≠ 0)))

/-- A claim read re-validates: it rescans where there is no claim or the claim is no longer valid, answers the claim, clears its
pending bit and leaves lines and ip alone. A complete write ignores its value, rescans, and drives the line and the mapped ip bit
with whether something is selected (R958, R959, R963). -/
def Obligations.PlicClaimAndComplete : Prop :=
  ∀ (s : State) (c : Nat),
    (let id := (claimRead c s).1
     let t := (claimRead c s).2
     let valid := s.plic.claimOf c ≠ 0 ∧ (s.plic.enables c).getLsbD (s.plic.claimOf c) = true ∧
       (s.plic.thresholdOf c).toNat < (s.plic.prioOf (s.plic.claimOf c)).toNat
     t = { s with plic := { s.plic with pending := t.plic.pending, claim := t.plic.claim } } ∧
     id = BitVec.ofNat 32 (t.plic.claimOf c) ∧
     (valid → t.plic.claimOf c = s.plic.claimOf c) ∧
     (¬valid → Best s.plic s.cfg.plicSources c (t.plic.claimOf c)) ∧
     (∀ d, d ≠ c → t.plic.claimOf d = s.plic.claimOf d) ∧
     ∀ j, j < 1024 → t.plic.isPending j = (s.plic.isPending j && (t.plic.claimOf c == 0 || j != t.plic.claimOf c))) ∧
    ∀ data,
     let t := plicWrite (.claim c) data s
     t = { s with ip := t.ip, plic := { s.plic with claim := t.plic.claim, line := t.plic.line } } ∧
     Best s.plic s.cfg.plicSources c (t.plic.claimOf c) ∧
     (∀ d, d ≠ c → t.plic.claimOf d = s.plic.claimOf d ∧ t.plic.lineOf d = s.plic.lineOf d) ∧
     t.plic.lineOf c = (t.plic.claimOf c != 0) ∧
     ∀ b, b < 64 → t.ip.getLsbD b =
       if (ctxLine s.cfg c).map lineBit = some b then t.plic.claimOf c != 0 else s.ip.getLsbD b

/-- The registers of the window, of a machine that meets R21: a priority for each source, pending words, enable words of each context,
and a threshold and a claim/complete register for each context, each at the offset of R955's table and at no other. The window rejects
an execute access, an offset that is no multiple of 4, a size other than 4 and 8, an offset that no register has, and a write to a
priority that is not writable, with no effect; an 8-byte access is rejected whole where either half is (R955, R956). An accepted one
makes its register accesses in ascending order, each with what device callbacks raise inside it, before its effect and after it (R955,
R1021; which callbacks run is the model's: log 26). -/
def Obligations.PlicWindowAccess : Prop :=
  (∀ (c : Config) (off : Nat) (r : PlicReg), c.wf = true → off % 4 = 0 → (plicRegAt c off = some r ↔
    (∃ k, k < c.plicSources ∧ off = 4 * k ∧ r = .priority k) ∨
    (∃ w, 32 * w < c.plicSources ∧ off = 0x1000 + 4 * w ∧ r = .pending w) ∨
    (∃ x w, x < c.plicContexts ∧ 32 * w < c.plicSources ∧ off = 0x2000 + 0x80 * x + 4 * w ∧ r = .enable x w) ∨
    (∃ x, x < c.plicContexts ∧ off = 0x200000 + 0x1000 * x ∧ r = .threshold x) ∨
    ∃ x, x < c.plicContexts ∧ off = 0x200000 + 0x1000 * x + 4 ∧ r = .claim x)) ∧
  (∀ (s : State) (off n : Nat) (acc : Access) (data : Word),
    (acc = .exec ∨ off % 4 ≠ 0 ∨ (n ≠ 4 ∧ n ≠ 8) ∨ plicTarget s.cfg acc off = none ∨
      (n = 8 ∧ plicTarget s.cfg acc (off + 4) = none) → plicAccess off n acc data s = (none, s)) ∧
    (plicTarget s.cfg acc off = none ↔ plicRegAt s.cfg off = none ∨
      (acc = .write ∧ s.cfg.plicPrioWritable = false ∧ ∃ k, plicRegAt s.cfg off = some (.priority k))) ∧
    (∀ r, acc ≠ .exec → off % 4 = 0 → plicTarget s.cfg acc off = some r →
      ∃ v t, plicAccess off 4 acc data s = (some v, t) ∧
        (acc = .read → v = (withCallbacks (plicRead r) s).1.setWidth 64 ∧ t = (withCallbacks (plicRead r) s).2) ∧
        (acc = .write → t = (withCallbacks (fun s => ((), plicWrite r (data.setWidth 32) s)) s).2)) ∧
    (∀ r q, acc ≠ .exec → off % 4 = 0 → plicTarget s.cfg acc off = some r → plicTarget s.cfg acc (off + 4) = some q →
      ∃ v t, plicAccess off 8 acc data s = (some v, t) ∧
        (acc = .read →
          let lo := withCallbacks (plicRead r) s
          let hi := withCallbacks (plicRead q) lo.2
          v = hi.1 ++ lo.1 ∧ t = hi.2) ∧
        (acc = .write → t = (withCallbacks (fun s => ((), plicWrite q (data.extractLsb' 32 32) s))
          (withCallbacks (fun s => ((), plicWrite r (data.setWidth 32) s)) s).2).2))) ∧
  ∀ (s : State) (f : State → BitVec 32 × State),
    (s.callbacks = [] → withCallbacks f s = f s) ∧
    ∀ c rest, s.callbacks = c :: rest →
      let raised (l : List Nat) (s : State) := l.foldl (fun s k => (plicRaise k s).getD s) s
      let r := f (raised c.before { s with callbacks := rest })
      withCallbacks f s = (r.1, raised c.after r.2)

/-- Reads and writes of the window's other registers: priorities (0 for source 0, whose writes are ignored; rejected when they are
not writable), pending words (writes ignored), enable words (ids that do not exist read 0 and are not stored; bit 0 of word 0
is not fixed), thresholds; no selection runs and no line changes (R955-R957, R960, R961). -/
def Obligations.PlicRegisters : Prop :=
  ∀ (s : State) (c w k : Nat) (data : BitVec 32), s.cfg.plicSources ≤ 1024 → w < 32 →
    let n := s.cfg.plicSources
    (s.cfg.plicPrioWritable = false → plicTarget s.cfg .write (4 * k) = none ∨ n ≤ k) ∧
    (plicRead (.priority k) s = (s.plic.prioOf k, s)) ∧ s.plic.prioOf 0 = 0 ∧
    (∀ t, k ≠ 0 → plicWrite (.priority k) data s = t →
      t = { s with plic := { s.plic with prio := t.plic.prio } } ∧ t.plic.prioOf k = data ∧
        ∀ j, j ≠ k → t.plic.prioOf j = s.plic.prioOf j) ∧
    plicWrite (.priority 0) data s = s ∧
    ((plicRead (.pending w) s).2 = s ∧ ∀ j, j < 32 →
      (plicRead (.pending w) s).1.getLsbD j = (decide (32 * w + j < n) && s.plic.isPending (32 * w + j))) ∧
    plicWrite (.pending w) data s = s ∧
    ((plicRead (.enable c w) s).2 = { s with free := (plicRead (.enable c w) s).2.free } ∧ ∀ j, j < 32 → 32 * w + j ≠ 0 →
      (plicRead (.enable c w) s).1.getLsbD j = (decide (32 * w + j < n) && (s.plic.enables c).getLsbD (32 * w + j))) ∧
    (∀ t, plicWrite (.enable c w) data s = t →
      t = { s with plic := { s.plic with enable := t.plic.enable }, free := t.free } ∧
      (∀ d, d ≠ c → t.plic.enables d = s.plic.enables d) ∧
      ∀ j, 1 ≤ j → j < 1024 → (t.plic.enables c).getLsbD j =
        if j / 32 = w ∧ j < n then data.getLsbD (j % 32) else (s.plic.enables c).getLsbD j) ∧
    plicRead (.threshold c) s = (s.plic.thresholdOf c, s) ∧
    (∀ t, plicWrite (.threshold c) data s = t →
      t = { s with plic := { s.plic with threshold := t.plic.threshold } } ∧ t.plic.thresholdOf c = data ∧
        ∀ d, d ≠ c → t.plic.thresholdOf d = s.plic.thresholdOf d)

/-! ### Reset -/

/-- Reset, for every configuration and launch image (R140, R1003-R1005): pc, privilege, run state, translation state, ip, CSR values,
TLB, reservation, PLIC, the general registers as `INIT_X` says with x0 zero, and RAM as the image says. The model's own are: pt_mode Bare
and root 0 where satp's default is not 0 (log 30), the cut of RESET_PC, INIT_X and the defaults to XLEN bits (log 17), that image bytes
outside RAM are dropped (log 31), what a byte the image does not list reads as (log 5), and `turns`, `callbacks`, `requests` and `free`
(log 6, log 26, log 13, log 7). -/
def Obligations.ResetState : Prop :=
  ∀ (c : Config) (image : List Host.Cell),
    let s := State.resetOf c image
    s.cfg = c ∧ s.pc = c.xlen.trunc c.resetPc ∧ s.priv = .machine ∧ s.runState = .running ∧ s.ptMode = .bare ∧ s.root = 0 ∧
    s.paging = .bare ∧ s.ip = 0 ∧ s.tlb = [] ∧ s.resv = false ∧
    s.x 0 = 0 ∧ (∀ r : Fin 32, r ≠ 0 → s.x (BitVec.ofFin r) = c.xlen.trunc c.initX[r]) ∧
    (∀ k, s.plic.isPending k = false ∧ s.plic.enables k = 0 ∧ s.plic.thresholdOf k = 0 ∧ s.plic.claimOf k = 0 ∧
      s.plic.lineOf k = false) ∧ s.plic.prioOf 0 = 0 ∧
    (c.plicPrioInit.Pairwise (fun a b => a.1 ≠ b.1) →
      (∀ e ∈ c.plicPrioInit, 1 ≤ e.1 → e.1 < c.plicSources → s.plic.prioOf e.1 = e.2) ∧
      ∀ k, (∀ e ∈ c.plicPrioInit, e.1 ≠ k) → s.plic.prioOf k = 0) ∧
    (c.csrConfig.Pairwise (fun a b => a.key ≠ b.key) →
      (∀ e ∈ c.csrConfig, s.csrAt e.key = c.xlen.trunc e.dflt) ∧
      ∀ k, (∀ e ∈ c.csrConfig, e.key ≠ k) → s.csrAt k = 0) ∧
    (image.Pairwise (fun a b => a.1 ≠ b.1) → ∀ e ∈ image, c.inRam e.1 1 = true → Memory.read s.mem e.1 = e.2)

/-! ### The whole machine -/

/-- Every step keeps RAM in canonical form with no entry outside RAM (R200, R241), and no step changes the configuration (R15). -/
def Obligations.MemoryFormAndConfigurationAreKept : Prop :=
  ∀ s t : State, step s = .next t → t.cfg = s.cfg ∧ (MemoryOk s → MemoryOk t)

/-- Every step keeps every register, the pc, ip and every CSR value within XLEN bits (R101, R103, R109, R120). -/
def Obligations.WidthsAreKept : Prop :=
  ∀ s t : State, WidthOk s → step s = .next t → WidthOk t

/-- Every step keeps the paging flag following priv and pt_mode, and the TLB with one entry for a tag, inside RAM, and the identity
while translation is off (R108, R217, R230, R231, R238). -/
def Obligations.TranslationStateIsKept : Prop :=
  ∀ s t : State, PagingOk s → TlbOk s → step s = .next t → PagingOk t ∧ TlbOk t

/-- With the reference CSR bank every step keeps pt_mode and root the mirror of satp, and ip zero outside its six bits (R107,
R109). -/
def Obligations.SatpMirrorAndIpAreKept : Prop :=
  ∀ s t : State, ReferenceCsrs s → SatpMirror s → IpOk s → step s = .next t → SatpMirror t ∧ IpOk t

/-- With the reference CSR bank and trap unit, every step keeps the read-only CSRs at their values (R660), the pc even (R103), and
never leaves the hart faulted or in the xret state (R911). -/
def Obligations.ReferenceMachineIsKept : Prop :=
  ∀ s t : State, ReferenceCsrs s → s.cfg.trapUnit = .reference → ReadOnlyCsrs s → PcEven s → s.runState = .running →
    step s = .next t → ReadOnlyCsrs t ∧ PcEven t ∧ t.runState = .running

/-- Every step keeps the PLIC's pending bits and claims within the ids that exist, and source 0 out of them (R951). -/
def Obligations.PlicStateIsKept : Prop :=
  ∀ s t : State, PlicOk s → step s = .next t → PlicOk t

/-- Reset meets every invariant that the steps keep, for the reference configuration with either XLEN. -/
def Obligations.ResetMeetsTheInvariants : Prop :=
  ∀ x : Xlen, let s := State.resetOf (Config.reference x) []
    s.cfg.wf = true ∧ MemoryOk s ∧ WidthOk s ∧ PagingOk s ∧ TlbOk s ∧ SatpMirror s ∧ IpOk s ∧ PlicOk s ∧ ReadOnlyCsrs s ∧
    PcEven s ∧ ReferenceCsrs s

/-- Only LR, SC, stores and AMOs change the reservation: not any other instruction, a trap or return, an interrupt entry, a fetch,
or another agent's move (R601, R602). -/
def Obligations.OnlyAtomicsAndStoresChangeTheReservation : Prop :=
  (∀ (i : Instr) (s t : State), storing i = false → lrForm i = none → exec i s = .next t → t.resv = s.resv) ∧
  (∀ (c : Cause) (v : Word) (s : State), (raise c v s).resv = s.resv) ∧
  (∀ (i : Nat) (s : State), (takeInterrupt i s).resv = s.resv) ∧
  (∀ (m : Turn) (s : State), (agentMove m s).resv = s.resv) ∧
  ∀ s : State, match fetch s with | .ok _ t => t.resv = s.resv | .trap _ _ t => t.resv = s.resv

/-- RAM changes only by stores, SC, AMOs and the walker's write-back (R216, R228, R241). An instruction that is none of those leaves every
byte as it was while translation is off or `AD_UPDATE` is off, and always where it makes no access. A load or LR, and a fetch, change
no byte but those of the entries that the walks of their accesses write back, the first access before the second. A trap, an interrupt
entry and every other agent's move leave RAM alone. -/
def Obligations.OnlyStoringInstructionsWriteRam : Prop :=
  (∀ (i : Instr) (s t : State), storing i = false → exec i s = .next t →
    (s.paging = .bare ∨ s.cfg.adUpdate = false → t.mem = s.mem) ∧
    (loadForm i = none → lrForm i = none → t.mem = s.mem) ∧
    (∀ f, loadForm i = some f →
      let va := addr s f.base f.off
      ∃ m, WroteEntry s (BitVec.ofNat 64 va) .read s.mem m ∧
        WroteEntry s (BitVec.ofNat 64 ((va + (4096 - va % 4096)) % modulus s)) .read m t.mem) ∧
    ∀ rd rs1 n, lrForm i = some (rd, rs1, n) → WroteEntry s (BitVec.ofNat 64 (u s rs1)) .read s.mem t.mem) ∧
  (∀ s : State, ∃ m, WroteEntry s s.pc .exec s.mem m ∧
    match fetch s with
    | .ok _ t => WroteEntry s (s.pcPlus 2) .exec m t.mem
    | .trap _ _ t => WroteEntry s (s.pcPlus 2) .exec m t.mem) ∧
  ∀ s : State, (∀ c v, (raise c v s).mem = s.mem) ∧ (∀ i, (takeInterrupt i s).mem = s.mem) ∧ ∀ m, (agentMove m s).mem = s.mem

/-- With the reference bank and an external trap unit: no instruction changes priv (R105); U-mode changes no CSR and no translation
register; S-mode changes of mstatus only the bits of sstatus, of mie only those of sie, and no other M-mode CSR value (R123, R130,
R661, R664). -/
def Obligations.LowerModesCannotWriteMachineCsrs : Prop :=
  ∀ (i : Instr) (s t : State), ReferenceCsrs s → WidthOk s → s.cfg.trapUnit = .external → exec i s = .next t →
    t.priv = s.priv ∧
    (s.priv = .user → t.csr = s.csr ∧ t.ptMode = s.ptMode ∧ t.root = s.root) ∧
    (s.priv = .supervisor →
      (∀ k, 768 ≤ k → k ≠ kMstatus → k ≠ kMie → t.csrAt k = s.csrAt k) ∧
      t.csrAt kMstatus &&& ~~~sstatusMask s.cfg.xlen = s.csrAt kMstatus &&& ~~~sstatusMask s.cfg.xlen ∧
      t.csrAt kMie &&& ~~~0x222 = s.csrAt kMie &&& ~~~0x222)
end

