-- ==== Sys2Proof/Laws/Memory.lean ====
section
/-! SUPPORT. Sparse tables and RAM: a read after a write, and the canonical form, which every operation keeps. -/

namespace Sys2Proof

/-! ### Tables -/

/-- The canonical form, said by its parts. -/
theorem Table.wf_iff {α : Type} [DecidableEq α] (d : α) (t : List (Nat × α)) :
    Table.wf d t = true ↔ t.Pairwise (fun a b => a.1 < b.1) ∧ ∀ e ∈ t, e.2 ≠ d := by
  induction t with
  | nil => simp [Table.wf]
  | cons a t ih =>
    cases t with
    | nil => simp [Table.wf]
    | cons b t =>
      simp only [Table.wf, Bool.and_eq_true, bne_iff_ne, decide_eq_true_eq, ih, List.pairwise_cons, List.mem_cons,
        forall_eq_or_imp]
      constructor
      · rintro ⟨⟨h1, h2⟩, ⟨h3, h4⟩, h5, h6⟩
        exact ⟨⟨⟨h2, fun c hc => h2.trans (h3 c hc)⟩, h3, h4⟩, h1, h5, h6⟩
      · rintro ⟨⟨⟨h2, _⟩, h3, h4⟩, h1, h5, h6⟩
        exact ⟨⟨h1, h2⟩, ⟨h3, h4⟩, h5, h6⟩

theorem Table.mem_erase {α : Type} (t : List (Nat × α)) (k : Nat) (e : Nat × α) :
    e ∈ Table.erase t k ↔ e ∈ t ∧ e.1 ≠ k := by
  induction t with
  | nil => simp [Table.erase]
  | cons a t ih => grind [Table.erase]

theorem Table.mem_insert {α : Type} (t : List (Nat × α)) (k : Nat) (v : α) (e : Nat × α) :
    e ∈ Table.insert t k v ↔ e = (k, v) ∨ e ∈ t := by
  induction t with
  | nil => simp [Table.insert]
  | cons a t ih => grind [Table.insert]

theorem Table.get_erase {α : Type} (d : α) (t : List (Nat × α)) (k j : Nat) :
    Table.get d (Table.erase t k) j = if j = k then d else Table.get d t j := by
  induction t with
  | nil => simp [Table.erase, Table.get]
  | cons a t ih => grind [Table.erase, Table.get]

theorem Table.get_insert {α : Type} (d : α) (t : List (Nat × α)) (k j : Nat) (v : α) (h : ∀ e ∈ t, e.1 ≠ k) :
    Table.get d (Table.insert t k v) j = if j = k then v else Table.get d t j := by
  induction t with
  | nil => grind [Table.insert, Table.get]
  | cons a t ih => grind [Table.insert, Table.get]

/-- A read after a write: the value written, and every other key as before. -/
theorem Table.get_set {α : Type} [DecidableEq α] (d : α) (t : List (Nat × α)) (k j : Nat) (v : α) :
    Table.get d (Table.set d t k v) j = if j = k then v else Table.get d t j := by
  unfold Table.set
  split
  · rename_i h; rw [Table.get_erase, h]
  · rw [Table.get_insert _ _ _ _ _ fun e he => ((Table.mem_erase t k e).1 he).2, Table.get_erase]; grind

@[simp] theorem Table.get_set_self {α : Type} [DecidableEq α] (d : α) (t : List (Nat × α)) (k : Nat) (v : α) :
    Table.get d (Table.set d t k v) k = v := by simp [Table.get_set]

theorem Table.get_set_ne {α : Type} [DecidableEq α] (d : α) (t : List (Nat × α)) {k j : Nat} (v : α) (h : j ≠ k) :
    Table.get d (Table.set d t k v) j = Table.get d t j := by simp [Table.get_set, h]

theorem Table.mem_set {α : Type} [DecidableEq α] (d : α) (t : List (Nat × α)) (k : Nat) (v : α) (e : Nat × α)
    (h : e ∈ Table.set d t k v) : e = (k, v) ∧ v ≠ d ∨ e ∈ t ∧ e.1 ≠ k := by
  unfold Table.set at h
  split at h
  · exact .inr ((Table.mem_erase t k e).1 h)
  · rename_i hv
    rcases (Table.mem_insert _ k v e).1 h with h | h
    · exact .inl ⟨h, hv⟩
    · exact .inr ((Table.mem_erase t k e).1 h)

theorem Table.erase_sorted {α : Type} (t : List (Nat × α)) (k : Nat) (h : t.Pairwise (fun a b => a.1 < b.1)) :
    (Table.erase t k).Pairwise (fun a b => a.1 < b.1) := by
  induction t with
  | nil => simp [Table.erase]
  | cons a t ih =>
    rw [List.pairwise_cons] at h
    rw [Table.erase]
    split
    · exact ih h.2
    · exact List.pairwise_cons.2 ⟨fun e he => h.1 e ((Table.mem_erase t k e).1 he).1, ih h.2⟩

theorem Table.insert_sorted {α : Type} (t : List (Nat × α)) (k : Nat) (v : α) (h : t.Pairwise (fun a b => a.1 < b.1))
    (hk : ∀ e ∈ t, e.1 ≠ k) : (Table.insert t k v).Pairwise (fun a b => a.1 < b.1) := by
  induction t with
  | nil => simp [Table.insert]
  | cons a t ih =>
    have ht := h
    rw [List.pairwise_cons] at h
    rw [Table.insert]
    split
    · rename_i hlt
      refine List.pairwise_cons.2 ⟨fun e he => ?_, ht⟩
      rcases List.mem_cons.1 he with rfl | he
      · exact hlt
      · exact Nat.lt_trans hlt (h.1 e he)
    · rename_i hlt
      refine List.pairwise_cons.2 ⟨fun e he => ?_, ih h.2 fun e he => hk e (List.mem_cons_of_mem _ he)⟩
      rcases (Table.mem_insert t k v e).1 he with rfl | he
      · have := hk a List.mem_cons_self; simp only; omega
      · exact h.1 e he

/-- Setting a key keeps the canonical form. -/
theorem Table.wf_set {α : Type} [DecidableEq α] (d : α) (t : List (Nat × α)) (k : Nat) (v : α) (h : Table.wf d t = true) :
    Table.wf d (Table.set d t k v) = true := by
  rw [Table.wf_iff] at h ⊢
  have hk : ∀ e ∈ Table.erase t k, e.1 ≠ k := fun e he => ((Table.mem_erase t k e).1 he).2
  constructor
  · unfold Table.set
    split
    · exact Table.erase_sorted t k h.1
    · exact Table.insert_sorted _ k v (Table.erase_sorted t k h.1) hk
  · intro e he
    rcases Table.mem_set d t k v e he with ⟨rfl, hv⟩ | ⟨he, _⟩
    · exact hv
    · exact h.2 e he

/-! ### RAM -/

theorem Memory.read_write (m : Memory) (p q : Nat) (b : Byte) :
    Memory.read (Memory.write m p b) q = if q = p then b else Memory.read m q :=
  Table.get_set _ m p q b

/-- One byte written keeps the canonical form. -/
theorem Memory.wf_write (m : Memory) (p : Nat) (b : Byte) (h : Memory.wf m = true) : Memory.wf (Memory.write m p b) = true :=
  Table.wf_set _ m p b h

theorem Memory.mem_write (m : Memory) (p : Nat) (b : Byte) (e : Host.Cell) (h : e ∈ Memory.write m p b) : e.1 = p ∨ e ∈ m := by
  rcases Table.mem_set _ m p b e h with ⟨rfl, _⟩ | ⟨h, _⟩
  · exact .inl rfl
  · exact .inr h

/-- The bytes after a little-endian write: byte `k` of the value at `p + k`, every other byte as before. -/
theorem Memory.read_writeLE (m : Memory) (p n q : Nat) (v : Word) :
    Memory.read (Memory.writeLE m p n v) q =
      if p ≤ q ∧ q < p + n then (v >>> (8 * (q - p))).setWidth 8 else Memory.read m q := by
  induction n generalizing m p v with
  | zero => simp [Memory.writeLE]
  | succ n ih =>
    rw [Memory.writeLE, ih, Memory.read_write]
    by_cases h : q = p
    · subst h; simp
    · by_cases h2 : p + 1 ≤ q ∧ q < p + 1 + n
      · have h3 : p ≤ q ∧ q < p + (n + 1) := by omega
        have h4 : 8 + 8 * (q - (p + 1)) = 8 * (q - p) := by omega
        rw [if_pos h2, if_pos h3, ← BitVec.shiftRight_add, h4]
      · have h3 : ¬ (p ≤ q ∧ q < p + (n + 1)) := by omega
        rw [if_neg h2, if_neg h3, if_neg h]

/-- A little-endian write keeps the canonical form. -/
theorem Memory.wf_writeLE (m : Memory) (p n : Nat) (v : Word) (h : Memory.wf m = true) :
    Memory.wf (Memory.writeLE m p n v) = true := by
  induction n generalizing m p v with
  | zero => exact h
  | succ n ih => exact ih _ _ _ (Memory.wf_write _ _ _ h)

/-- A little-endian write lists no address but the old ones and those it writes. -/
theorem Memory.mem_writeLE (m : Memory) (p n : Nat) (v : Word) (e : Host.Cell) (h : e ∈ Memory.writeLE m p n v) :
    (p ≤ e.1 ∧ e.1 < p + n) ∨ e ∈ m := by
  induction n generalizing m p v with
  | zero => exact .inr h
  | succ n ih =>
    rcases ih _ _ _ h with h | h
    · left; omega
    · rcases Memory.mem_write _ _ _ _ h with h | h
      · left; omega
      · exact .inr h

/-- A little-endian read depends on its bytes only. -/
theorem Memory.readLE_congr {m m' : Memory} {p n : Nat} (h : ∀ q, p ≤ q → q < p + n → Memory.read m' q = Memory.read m q) :
    Memory.readLE m' p n = Memory.readLE m p n := by
  induction n generalizing p with
  | zero => rfl
  | succ n ih =>
    rw [Memory.readLE, Memory.readLE, h p (by omega) (by omega), ih fun q h1 h2 => h q (by omega) (by omega)]

theorem Memory.readLE_step (m : Memory) (p n : Nat) (h : n ≤ 7) (hl : (Memory.readLE m (p + 1) n).toNat < 256 ^ n) :
    (Memory.readLE m p (n + 1)).toNat = (Memory.read m p).toNat + 256 * (Memory.readLE m (p + 1) n).toNat := by
  have b := (Memory.read m p).isLt
  have p7 : 256 ^ n ≤ 256 ^ 7 := Nat.pow_le_pow_right (by decide) h
  rw [Memory.readLE, BitVec.toNat_or, BitVec.toNat_shiftLeft, BitVec.toNat_setWidth, Nat.shiftLeft_eq,
    Nat.mod_eq_of_lt (by omega : (Memory.read m p).toNat < 2 ^ 64),
    Nat.mod_eq_of_lt (by omega : (Memory.readLE m (p + 1) n).toNat * 2 ^ 8 < 2 ^ 64), Nat.or_comm,
    Nat.mul_comm _ (2 ^ 8), ← Nat.two_pow_add_eq_or_of_lt (by omega)]
  omega

/-- `n` bytes are a number below 256^n. -/
theorem Memory.readLE_lt (m : Memory) (p n : Nat) (h : n ≤ 8) : (Memory.readLE m p n).toNat < 256 ^ n := by
  induction n generalizing p with
  | zero => simp [Memory.readLE]
  | succ n ih =>
    have l := ih (p + 1) (by omega)
    have b := (Memory.read m p).isLt
    rw [Memory.readLE_step m p n (by omega) l, Nat.pow_succ]; omega

/-- The number a little-endian read gives, byte by byte. -/
theorem Memory.readLE_succ_toNat (m : Memory) (p n : Nat) (h : n < 8) :
    (Memory.readLE m p (n + 1)).toNat = (Memory.read m p).toNat + 256 * (Memory.readLE m (p + 1) n).toNat :=
  Memory.readLE_step m p n (by omega) (Memory.readLE_lt m _ n (by omega))

/-- A launch image in RAM is in canonical form and lists no address outside RAM. -/
theorem Memory.ofImage_ok (base size : Nat) (cells : List Host.Cell) :
    Memory.wf (Memory.ofImage base size cells) = true ∧
    ∀ e ∈ Memory.ofImage base size cells, base ≤ e.1 ∧ e.1 < base + size := by
  have key : ∀ (l : List Host.Cell) (m : Memory), Memory.wf m = true → (∀ e ∈ m, base ≤ e.1 ∧ e.1 < base + size) →
      Memory.wf (l.foldl (fun m c => if base ≤ c.1 && c.1 < base + size then Memory.write m c.1 c.2 else m) m) = true ∧
      ∀ e ∈ l.foldl (fun m c => if base ≤ c.1 && c.1 < base + size then Memory.write m c.1 c.2 else m) m,
        base ≤ e.1 ∧ e.1 < base + size := by
    intro l
    induction l with
    | nil => exact fun m h1 h2 => ⟨h1, h2⟩
    | cons c l ih =>
      intro m h1 h2
      rw [List.foldl_cons]
      split
      · rename_i hc
        refine ih _ (Memory.wf_write _ _ _ h1) fun e he => ?_
        rcases Memory.mem_write _ _ _ _ he with h | h
        · simp at hc; omega
        · exact h2 e h
      · exact ih _ h1 h2
  exact key cells [] rfl (by simp)

end Sys2Proof
end

