-- ==== Sys2Proof/Laws/State.lean ====
section
/-! SUPPORT. What each update of the state leaves alone: one lemma for each field and each update, and what it writes. -/

namespace Sys2Proof.Machine

variable (s : State)

/-! ### State.setX -/

@[simp] theorem State.setX_cfg (r : RegIdx) (v : Word) : (s.setX r v).cfg = s.cfg := by unfold State.setX; split <;> rfl
@[simp] theorem State.setX_pc (r : RegIdx) (v : Word) : (s.setX r v).pc = s.pc := by unfold State.setX; split <;> rfl
@[simp] theorem State.setX_priv (r : RegIdx) (v : Word) : (s.setX r v).priv = s.priv := by unfold State.setX; split <;> rfl
@[simp] theorem State.setX_runState (r : RegIdx) (v : Word) : (s.setX r v).runState = s.runState := by unfold State.setX; split <;> rfl
@[simp] theorem State.setX_ptMode (r : RegIdx) (v : Word) : (s.setX r v).ptMode = s.ptMode := by unfold State.setX; split <;> rfl
@[simp] theorem State.setX_root (r : RegIdx) (v : Word) : (s.setX r v).root = s.root := by unfold State.setX; split <;> rfl
@[simp] theorem State.setX_paging (r : RegIdx) (v : Word) : (s.setX r v).paging = s.paging := by unfold State.setX; split <;> rfl
@[simp] theorem State.setX_ip (r : RegIdx) (v : Word) : (s.setX r v).ip = s.ip := by unfold State.setX; split <;> rfl
@[simp] theorem State.setX_csr (r : RegIdx) (v : Word) : (s.setX r v).csr = s.csr := by unfold State.setX; split <;> rfl
@[simp] theorem State.setX_tlb (r : RegIdx) (v : Word) : (s.setX r v).tlb = s.tlb := by unfold State.setX; split <;> rfl
@[simp] theorem State.setX_resv (r : RegIdx) (v : Word) : (s.setX r v).resv = s.resv := by unfold State.setX; split <;> rfl
@[simp] theorem State.setX_plic (r : RegIdx) (v : Word) : (s.setX r v).plic = s.plic := by unfold State.setX; split <;> rfl
@[simp] theorem State.setX_mem (r : RegIdx) (v : Word) : (s.setX r v).mem = s.mem := by unfold State.setX; split <;> rfl
@[simp] theorem State.setX_turns (r : RegIdx) (v : Word) : (s.setX r v).turns = s.turns := by unfold State.setX; split <;> rfl
@[simp] theorem State.setX_callbacks (r : RegIdx) (v : Word) : (s.setX r v).callbacks = s.callbacks := by unfold State.setX; split <;> rfl
@[simp] theorem State.setX_requests (r : RegIdx) (v : Word) : (s.setX r v).requests = s.requests := by unfold State.setX; split <;> rfl
@[simp] theorem State.setX_free (r : RegIdx) (v : Word) : (s.setX r v).free = s.free := by unfold State.setX; split <;> rfl

/-! ### State.setPc -/

@[simp] theorem State.setPc_cfg (v : Word) : (s.setPc v).cfg = s.cfg := rfl
@[simp] theorem State.setPc_regs (v : Word) : (s.setPc v).regs = s.regs := rfl
@[simp] theorem State.setPc_priv (v : Word) : (s.setPc v).priv = s.priv := rfl
@[simp] theorem State.setPc_runState (v : Word) : (s.setPc v).runState = s.runState := rfl
@[simp] theorem State.setPc_ptMode (v : Word) : (s.setPc v).ptMode = s.ptMode := rfl
@[simp] theorem State.setPc_root (v : Word) : (s.setPc v).root = s.root := rfl
@[simp] theorem State.setPc_paging (v : Word) : (s.setPc v).paging = s.paging := rfl
@[simp] theorem State.setPc_ip (v : Word) : (s.setPc v).ip = s.ip := rfl
@[simp] theorem State.setPc_csr (v : Word) : (s.setPc v).csr = s.csr := rfl
@[simp] theorem State.setPc_tlb (v : Word) : (s.setPc v).tlb = s.tlb := rfl
@[simp] theorem State.setPc_resv (v : Word) : (s.setPc v).resv = s.resv := rfl
@[simp] theorem State.setPc_plic (v : Word) : (s.setPc v).plic = s.plic := rfl
@[simp] theorem State.setPc_mem (v : Word) : (s.setPc v).mem = s.mem := rfl
@[simp] theorem State.setPc_turns (v : Word) : (s.setPc v).turns = s.turns := rfl
@[simp] theorem State.setPc_callbacks (v : Word) : (s.setPc v).callbacks = s.callbacks := rfl
@[simp] theorem State.setPc_requests (v : Word) : (s.setPc v).requests = s.requests := rfl
@[simp] theorem State.setPc_free (v : Word) : (s.setPc v).free = s.free := rfl

/-! ### State.advance -/

@[simp] theorem State.advance_cfg (n : Nat) : (s.advance n).cfg = s.cfg := rfl
@[simp] theorem State.advance_regs (n : Nat) : (s.advance n).regs = s.regs := rfl
@[simp] theorem State.advance_priv (n : Nat) : (s.advance n).priv = s.priv := rfl
@[simp] theorem State.advance_runState (n : Nat) : (s.advance n).runState = s.runState := rfl
@[simp] theorem State.advance_ptMode (n : Nat) : (s.advance n).ptMode = s.ptMode := rfl
@[simp] theorem State.advance_root (n : Nat) : (s.advance n).root = s.root := rfl
@[simp] theorem State.advance_paging (n : Nat) : (s.advance n).paging = s.paging := rfl
@[simp] theorem State.advance_ip (n : Nat) : (s.advance n).ip = s.ip := rfl
@[simp] theorem State.advance_csr (n : Nat) : (s.advance n).csr = s.csr := rfl
@[simp] theorem State.advance_tlb (n : Nat) : (s.advance n).tlb = s.tlb := rfl
@[simp] theorem State.advance_resv (n : Nat) : (s.advance n).resv = s.resv := rfl
@[simp] theorem State.advance_plic (n : Nat) : (s.advance n).plic = s.plic := rfl
@[simp] theorem State.advance_mem (n : Nat) : (s.advance n).mem = s.mem := rfl
@[simp] theorem State.advance_turns (n : Nat) : (s.advance n).turns = s.turns := rfl
@[simp] theorem State.advance_callbacks (n : Nat) : (s.advance n).callbacks = s.callbacks := rfl
@[simp] theorem State.advance_requests (n : Nat) : (s.advance n).requests = s.requests := rfl
@[simp] theorem State.advance_free (n : Nat) : (s.advance n).free = s.free := rfl

/-! ### State.tick -/

@[simp] theorem State.tick_cfg : (s.tick).cfg = s.cfg := rfl
@[simp] theorem State.tick_regs : (s.tick).regs = s.regs := rfl
@[simp] theorem State.tick_pc : (s.tick).pc = s.pc := rfl
@[simp] theorem State.tick_priv : (s.tick).priv = s.priv := rfl
@[simp] theorem State.tick_runState : (s.tick).runState = s.runState := rfl
@[simp] theorem State.tick_ptMode : (s.tick).ptMode = s.ptMode := rfl
@[simp] theorem State.tick_root : (s.tick).root = s.root := rfl
@[simp] theorem State.tick_paging : (s.tick).paging = s.paging := rfl
@[simp] theorem State.tick_ip : (s.tick).ip = s.ip := rfl
@[simp] theorem State.tick_csr : (s.tick).csr = s.csr := rfl
@[simp] theorem State.tick_tlb : (s.tick).tlb = s.tlb := rfl
@[simp] theorem State.tick_resv : (s.tick).resv = s.resv := rfl
@[simp] theorem State.tick_plic : (s.tick).plic = s.plic := rfl
@[simp] theorem State.tick_mem : (s.tick).mem = s.mem := rfl
@[simp] theorem State.tick_turns : (s.tick).turns = s.turns := rfl
@[simp] theorem State.tick_callbacks : (s.tick).callbacks = s.callbacks := rfl
@[simp] theorem State.tick_requests : (s.tick).requests = s.requests := rfl

/-! ### State.setCsr -/

@[simp] theorem State.setCsr_cfg (k : Nat) (v : Word) : (s.setCsr k v).cfg = s.cfg := rfl
@[simp] theorem State.setCsr_regs (k : Nat) (v : Word) : (s.setCsr k v).regs = s.regs := rfl
@[simp] theorem State.setCsr_pc (k : Nat) (v : Word) : (s.setCsr k v).pc = s.pc := rfl
@[simp] theorem State.setCsr_priv (k : Nat) (v : Word) : (s.setCsr k v).priv = s.priv := rfl
@[simp] theorem State.setCsr_runState (k : Nat) (v : Word) : (s.setCsr k v).runState = s.runState := rfl
@[simp] theorem State.setCsr_ptMode (k : Nat) (v : Word) : (s.setCsr k v).ptMode = s.ptMode := rfl
@[simp] theorem State.setCsr_root (k : Nat) (v : Word) : (s.setCsr k v).root = s.root := rfl
@[simp] theorem State.setCsr_paging (k : Nat) (v : Word) : (s.setCsr k v).paging = s.paging := rfl
@[simp] theorem State.setCsr_ip (k : Nat) (v : Word) : (s.setCsr k v).ip = s.ip := rfl
@[simp] theorem State.setCsr_tlb (k : Nat) (v : Word) : (s.setCsr k v).tlb = s.tlb := rfl
@[simp] theorem State.setCsr_resv (k : Nat) (v : Word) : (s.setCsr k v).resv = s.resv := rfl
@[simp] theorem State.setCsr_plic (k : Nat) (v : Word) : (s.setCsr k v).plic = s.plic := rfl
@[simp] theorem State.setCsr_mem (k : Nat) (v : Word) : (s.setCsr k v).mem = s.mem := rfl
@[simp] theorem State.setCsr_turns (k : Nat) (v : Word) : (s.setCsr k v).turns = s.turns := rfl
@[simp] theorem State.setCsr_callbacks (k : Nat) (v : Word) : (s.setCsr k v).callbacks = s.callbacks := rfl
@[simp] theorem State.setCsr_requests (k : Nat) (v : Word) : (s.setCsr k v).requests = s.requests := rfl
@[simp] theorem State.setCsr_free (k : Nat) (v : Word) : (s.setCsr k v).free = s.free := rfl

/-! ### State.recomputePaging -/

@[simp] theorem State.recomputePaging_cfg : (s.recomputePaging).cfg = s.cfg := rfl
@[simp] theorem State.recomputePaging_regs : (s.recomputePaging).regs = s.regs := rfl
@[simp] theorem State.recomputePaging_pc : (s.recomputePaging).pc = s.pc := rfl
@[simp] theorem State.recomputePaging_priv : (s.recomputePaging).priv = s.priv := rfl
@[simp] theorem State.recomputePaging_runState : (s.recomputePaging).runState = s.runState := rfl
@[simp] theorem State.recomputePaging_ptMode : (s.recomputePaging).ptMode = s.ptMode := rfl
@[simp] theorem State.recomputePaging_root : (s.recomputePaging).root = s.root := rfl
@[simp] theorem State.recomputePaging_ip : (s.recomputePaging).ip = s.ip := rfl
@[simp] theorem State.recomputePaging_csr : (s.recomputePaging).csr = s.csr := rfl
@[simp] theorem State.recomputePaging_resv : (s.recomputePaging).resv = s.resv := rfl
@[simp] theorem State.recomputePaging_plic : (s.recomputePaging).plic = s.plic := rfl
@[simp] theorem State.recomputePaging_mem : (s.recomputePaging).mem = s.mem := rfl
@[simp] theorem State.recomputePaging_turns : (s.recomputePaging).turns = s.turns := rfl
@[simp] theorem State.recomputePaging_callbacks : (s.recomputePaging).callbacks = s.callbacks := rfl
@[simp] theorem State.recomputePaging_requests : (s.recomputePaging).requests = s.requests := rfl
@[simp] theorem State.recomputePaging_free : (s.recomputePaging).free = s.free := rfl

/-! ### State.setPriv -/

@[simp] theorem State.setPriv_cfg (p : Priv) : (s.setPriv p).cfg = s.cfg := rfl
@[simp] theorem State.setPriv_regs (p : Priv) : (s.setPriv p).regs = s.regs := rfl
@[simp] theorem State.setPriv_pc (p : Priv) : (s.setPriv p).pc = s.pc := rfl
@[simp] theorem State.setPriv_runState (p : Priv) : (s.setPriv p).runState = s.runState := rfl
@[simp] theorem State.setPriv_ptMode (p : Priv) : (s.setPriv p).ptMode = s.ptMode := rfl
@[simp] theorem State.setPriv_root (p : Priv) : (s.setPriv p).root = s.root := rfl
@[simp] theorem State.setPriv_ip (p : Priv) : (s.setPriv p).ip = s.ip := rfl
@[simp] theorem State.setPriv_csr (p : Priv) : (s.setPriv p).csr = s.csr := rfl
@[simp] theorem State.setPriv_resv (p : Priv) : (s.setPriv p).resv = s.resv := rfl
@[simp] theorem State.setPriv_plic (p : Priv) : (s.setPriv p).plic = s.plic := rfl
@[simp] theorem State.setPriv_mem (p : Priv) : (s.setPriv p).mem = s.mem := rfl
@[simp] theorem State.setPriv_turns (p : Priv) : (s.setPriv p).turns = s.turns := rfl
@[simp] theorem State.setPriv_callbacks (p : Priv) : (s.setPriv p).callbacks = s.callbacks := rfl
@[simp] theorem State.setPriv_requests (p : Priv) : (s.setPriv p).requests = s.requests := rfl
@[simp] theorem State.setPriv_free (p : Priv) : (s.setPriv p).free = s.free := rfl

/-! ### tlbFlush -/

@[simp] theorem tlbFlush_cfg : (tlbFlush s).cfg = s.cfg := rfl
@[simp] theorem tlbFlush_regs : (tlbFlush s).regs = s.regs := rfl
@[simp] theorem tlbFlush_pc : (tlbFlush s).pc = s.pc := rfl
@[simp] theorem tlbFlush_priv : (tlbFlush s).priv = s.priv := rfl
@[simp] theorem tlbFlush_runState : (tlbFlush s).runState = s.runState := rfl
@[simp] theorem tlbFlush_ptMode : (tlbFlush s).ptMode = s.ptMode := rfl
@[simp] theorem tlbFlush_root : (tlbFlush s).root = s.root := rfl
@[simp] theorem tlbFlush_paging : (tlbFlush s).paging = s.paging := rfl
@[simp] theorem tlbFlush_ip : (tlbFlush s).ip = s.ip := rfl
@[simp] theorem tlbFlush_csr : (tlbFlush s).csr = s.csr := rfl
@[simp] theorem tlbFlush_resv : (tlbFlush s).resv = s.resv := rfl
@[simp] theorem tlbFlush_plic : (tlbFlush s).plic = s.plic := rfl
@[simp] theorem tlbFlush_mem : (tlbFlush s).mem = s.mem := rfl
@[simp] theorem tlbFlush_turns : (tlbFlush s).turns = s.turns := rfl
@[simp] theorem tlbFlush_callbacks : (tlbFlush s).callbacks = s.callbacks := rfl
@[simp] theorem tlbFlush_requests : (tlbFlush s).requests = s.requests := rfl
@[simp] theorem tlbFlush_free : (tlbFlush s).free = s.free := rfl

/-! ### enterM -/

@[simp] theorem enterM_cfg (cv tval : Word) (i : Option Nat) : (enterM cv tval i s).cfg = s.cfg := by simp only [enterM, State.setPc_cfg, State.setPriv_cfg, State.setCsr_cfg]
@[simp] theorem enterM_regs (cv tval : Word) (i : Option Nat) : (enterM cv tval i s).regs = s.regs := by simp only [enterM, State.setPc_regs, State.setPriv_regs, State.setCsr_regs]
@[simp] theorem enterM_runState (cv tval : Word) (i : Option Nat) : (enterM cv tval i s).runState = s.runState := by simp only [enterM, State.setPc_runState, State.setPriv_runState, State.setCsr_runState]
@[simp] theorem enterM_ptMode (cv tval : Word) (i : Option Nat) : (enterM cv tval i s).ptMode = s.ptMode := by simp only [enterM, State.setPc_ptMode, State.setPriv_ptMode, State.setCsr_ptMode]
@[simp] theorem enterM_root (cv tval : Word) (i : Option Nat) : (enterM cv tval i s).root = s.root := by simp only [enterM, State.setPc_root, State.setPriv_root, State.setCsr_root]
@[simp] theorem enterM_ip (cv tval : Word) (i : Option Nat) : (enterM cv tval i s).ip = s.ip := by simp only [enterM, State.setPc_ip, State.setPriv_ip, State.setCsr_ip]
@[simp] theorem enterM_resv (cv tval : Word) (i : Option Nat) : (enterM cv tval i s).resv = s.resv := by simp only [enterM, State.setPc_resv, State.setPriv_resv, State.setCsr_resv]
@[simp] theorem enterM_plic (cv tval : Word) (i : Option Nat) : (enterM cv tval i s).plic = s.plic := by simp only [enterM, State.setPc_plic, State.setPriv_plic, State.setCsr_plic]
@[simp] theorem enterM_mem (cv tval : Word) (i : Option Nat) : (enterM cv tval i s).mem = s.mem := by simp only [enterM, State.setPc_mem, State.setPriv_mem, State.setCsr_mem]
@[simp] theorem enterM_turns (cv tval : Word) (i : Option Nat) : (enterM cv tval i s).turns = s.turns := by simp only [enterM, State.setPc_turns, State.setPriv_turns, State.setCsr_turns]
@[simp] theorem enterM_callbacks (cv tval : Word) (i : Option Nat) : (enterM cv tval i s).callbacks = s.callbacks := by simp only [enterM, State.setPc_callbacks, State.setPriv_callbacks, State.setCsr_callbacks]
@[simp] theorem enterM_requests (cv tval : Word) (i : Option Nat) : (enterM cv tval i s).requests = s.requests := by simp only [enterM, State.setPc_requests, State.setPriv_requests, State.setCsr_requests]
@[simp] theorem enterM_free (cv tval : Word) (i : Option Nat) : (enterM cv tval i s).free = s.free := by simp only [enterM, State.setPc_free, State.setPriv_free, State.setCsr_free]

/-! ### enterS -/

@[simp] theorem enterS_cfg (cv tval : Word) (i : Option Nat) : (enterS cv tval i s).cfg = s.cfg := by simp only [enterS, State.setPc_cfg, State.setPriv_cfg, State.setCsr_cfg]
@[simp] theorem enterS_regs (cv tval : Word) (i : Option Nat) : (enterS cv tval i s).regs = s.regs := by simp only [enterS, State.setPc_regs, State.setPriv_regs, State.setCsr_regs]
@[simp] theorem enterS_runState (cv tval : Word) (i : Option Nat) : (enterS cv tval i s).runState = s.runState := by simp only [enterS, State.setPc_runState, State.setPriv_runState, State.setCsr_runState]
@[simp] theorem enterS_ptMode (cv tval : Word) (i : Option Nat) : (enterS cv tval i s).ptMode = s.ptMode := by simp only [enterS, State.setPc_ptMode, State.setPriv_ptMode, State.setCsr_ptMode]
@[simp] theorem enterS_root (cv tval : Word) (i : Option Nat) : (enterS cv tval i s).root = s.root := by simp only [enterS, State.setPc_root, State.setPriv_root, State.setCsr_root]
@[simp] theorem enterS_ip (cv tval : Word) (i : Option Nat) : (enterS cv tval i s).ip = s.ip := by simp only [enterS, State.setPc_ip, State.setPriv_ip, State.setCsr_ip]
@[simp] theorem enterS_resv (cv tval : Word) (i : Option Nat) : (enterS cv tval i s).resv = s.resv := by simp only [enterS, State.setPc_resv, State.setPriv_resv, State.setCsr_resv]
@[simp] theorem enterS_plic (cv tval : Word) (i : Option Nat) : (enterS cv tval i s).plic = s.plic := by simp only [enterS, State.setPc_plic, State.setPriv_plic, State.setCsr_plic]
@[simp] theorem enterS_mem (cv tval : Word) (i : Option Nat) : (enterS cv tval i s).mem = s.mem := by simp only [enterS, State.setPc_mem, State.setPriv_mem, State.setCsr_mem]
@[simp] theorem enterS_turns (cv tval : Word) (i : Option Nat) : (enterS cv tval i s).turns = s.turns := by simp only [enterS, State.setPc_turns, State.setPriv_turns, State.setCsr_turns]
@[simp] theorem enterS_callbacks (cv tval : Word) (i : Option Nat) : (enterS cv tval i s).callbacks = s.callbacks := by simp only [enterS, State.setPc_callbacks, State.setPriv_callbacks, State.setCsr_callbacks]
@[simp] theorem enterS_requests (cv tval : Word) (i : Option Nat) : (enterS cv tval i s).requests = s.requests := by simp only [enterS, State.setPc_requests, State.setPriv_requests, State.setCsr_requests]
@[simp] theorem enterS_free (cv tval : Word) (i : Option Nat) : (enterS cv tval i s).free = s.free := by simp only [enterS, State.setPc_free, State.setPriv_free, State.setCsr_free]

/-! ### storeDone -/

@[simp] theorem storeDone_cfg : (storeDone s).cfg = s.cfg := by unfold storeDone; split <;> rfl
@[simp] theorem storeDone_regs : (storeDone s).regs = s.regs := by unfold storeDone; split <;> rfl
@[simp] theorem storeDone_pc : (storeDone s).pc = s.pc := by unfold storeDone; split <;> rfl
@[simp] theorem storeDone_priv : (storeDone s).priv = s.priv := by unfold storeDone; split <;> rfl
@[simp] theorem storeDone_runState : (storeDone s).runState = s.runState := by unfold storeDone; split <;> rfl
@[simp] theorem storeDone_ptMode : (storeDone s).ptMode = s.ptMode := by unfold storeDone; split <;> rfl
@[simp] theorem storeDone_root : (storeDone s).root = s.root := by unfold storeDone; split <;> rfl
@[simp] theorem storeDone_paging : (storeDone s).paging = s.paging := by unfold storeDone; split <;> rfl
@[simp] theorem storeDone_ip : (storeDone s).ip = s.ip := by unfold storeDone; split <;> rfl
@[simp] theorem storeDone_csr : (storeDone s).csr = s.csr := by unfold storeDone; split <;> rfl
@[simp] theorem storeDone_tlb : (storeDone s).tlb = s.tlb := by unfold storeDone; split <;> rfl
@[simp] theorem storeDone_plic : (storeDone s).plic = s.plic := by unfold storeDone; split <;> rfl
@[simp] theorem storeDone_mem : (storeDone s).mem = s.mem := by unfold storeDone; split <;> rfl
@[simp] theorem storeDone_turns : (storeDone s).turns = s.turns := by unfold storeDone; split <;> rfl
@[simp] theorem storeDone_callbacks : (storeDone s).callbacks = s.callbacks := by unfold storeDone; split <;> rfl
@[simp] theorem storeDone_requests : (storeDone s).requests = s.requests := by unfold storeDone; split <;> rfl

/-! ### plicSelect -/

@[simp] theorem plicSelect_cfg (c : Nat) (keep : Bool) : (plicSelect c keep s).cfg = s.cfg := rfl
@[simp] theorem plicSelect_regs (c : Nat) (keep : Bool) : (plicSelect c keep s).regs = s.regs := rfl
@[simp] theorem plicSelect_pc (c : Nat) (keep : Bool) : (plicSelect c keep s).pc = s.pc := rfl
@[simp] theorem plicSelect_priv (c : Nat) (keep : Bool) : (plicSelect c keep s).priv = s.priv := rfl
@[simp] theorem plicSelect_runState (c : Nat) (keep : Bool) : (plicSelect c keep s).runState = s.runState := rfl
@[simp] theorem plicSelect_ptMode (c : Nat) (keep : Bool) : (plicSelect c keep s).ptMode = s.ptMode := rfl
@[simp] theorem plicSelect_root (c : Nat) (keep : Bool) : (plicSelect c keep s).root = s.root := rfl
@[simp] theorem plicSelect_paging (c : Nat) (keep : Bool) : (plicSelect c keep s).paging = s.paging := rfl
@[simp] theorem plicSelect_ip (c : Nat) (keep : Bool) : (plicSelect c keep s).ip = s.ip := rfl
@[simp] theorem plicSelect_csr (c : Nat) (keep : Bool) : (plicSelect c keep s).csr = s.csr := rfl
@[simp] theorem plicSelect_tlb (c : Nat) (keep : Bool) : (plicSelect c keep s).tlb = s.tlb := rfl
@[simp] theorem plicSelect_resv (c : Nat) (keep : Bool) : (plicSelect c keep s).resv = s.resv := rfl
@[simp] theorem plicSelect_mem (c : Nat) (keep : Bool) : (plicSelect c keep s).mem = s.mem := rfl
@[simp] theorem plicSelect_turns (c : Nat) (keep : Bool) : (plicSelect c keep s).turns = s.turns := rfl
@[simp] theorem plicSelect_callbacks (c : Nat) (keep : Bool) : (plicSelect c keep s).callbacks = s.callbacks := rfl
@[simp] theorem plicSelect_requests (c : Nat) (keep : Bool) : (plicSelect c keep s).requests = s.requests := rfl
@[simp] theorem plicSelect_free (c : Nat) (keep : Bool) : (plicSelect c keep s).free = s.free := rfl

/-! ### setPending -/

@[simp] theorem setPending_cfg (k : Nat) (level : Bool) : (setPending k level s).cfg = s.cfg := rfl
@[simp] theorem setPending_regs (k : Nat) (level : Bool) : (setPending k level s).regs = s.regs := rfl
@[simp] theorem setPending_pc (k : Nat) (level : Bool) : (setPending k level s).pc = s.pc := rfl
@[simp] theorem setPending_priv (k : Nat) (level : Bool) : (setPending k level s).priv = s.priv := rfl
@[simp] theorem setPending_runState (k : Nat) (level : Bool) : (setPending k level s).runState = s.runState := rfl
@[simp] theorem setPending_ptMode (k : Nat) (level : Bool) : (setPending k level s).ptMode = s.ptMode := rfl
@[simp] theorem setPending_root (k : Nat) (level : Bool) : (setPending k level s).root = s.root := rfl
@[simp] theorem setPending_paging (k : Nat) (level : Bool) : (setPending k level s).paging = s.paging := rfl
@[simp] theorem setPending_ip (k : Nat) (level : Bool) : (setPending k level s).ip = s.ip := rfl
@[simp] theorem setPending_csr (k : Nat) (level : Bool) : (setPending k level s).csr = s.csr := rfl
@[simp] theorem setPending_tlb (k : Nat) (level : Bool) : (setPending k level s).tlb = s.tlb := rfl
@[simp] theorem setPending_resv (k : Nat) (level : Bool) : (setPending k level s).resv = s.resv := rfl
@[simp] theorem setPending_mem (k : Nat) (level : Bool) : (setPending k level s).mem = s.mem := rfl
@[simp] theorem setPending_turns (k : Nat) (level : Bool) : (setPending k level s).turns = s.turns := rfl
@[simp] theorem setPending_callbacks (k : Nat) (level : Bool) : (setPending k level s).callbacks = s.callbacks := rfl
@[simp] theorem setPending_requests (k : Nat) (level : Bool) : (setPending k level s).requests = s.requests := rfl
@[simp] theorem setPending_free (k : Nat) (level : Bool) : (setPending k level s).free = s.free := rfl

/-! ### setLine -/

@[simp] theorem setLine_cfg (c : Nat) (level : Bool) : (setLine c level s).cfg = s.cfg := rfl
@[simp] theorem setLine_regs (c : Nat) (level : Bool) : (setLine c level s).regs = s.regs := rfl
@[simp] theorem setLine_pc (c : Nat) (level : Bool) : (setLine c level s).pc = s.pc := rfl
@[simp] theorem setLine_priv (c : Nat) (level : Bool) : (setLine c level s).priv = s.priv := rfl
@[simp] theorem setLine_runState (c : Nat) (level : Bool) : (setLine c level s).runState = s.runState := rfl
@[simp] theorem setLine_ptMode (c : Nat) (level : Bool) : (setLine c level s).ptMode = s.ptMode := rfl
@[simp] theorem setLine_root (c : Nat) (level : Bool) : (setLine c level s).root = s.root := rfl
@[simp] theorem setLine_paging (c : Nat) (level : Bool) : (setLine c level s).paging = s.paging := rfl
@[simp] theorem setLine_csr (c : Nat) (level : Bool) : (setLine c level s).csr = s.csr := rfl
@[simp] theorem setLine_tlb (c : Nat) (level : Bool) : (setLine c level s).tlb = s.tlb := rfl
@[simp] theorem setLine_resv (c : Nat) (level : Bool) : (setLine c level s).resv = s.resv := rfl
@[simp] theorem setLine_mem (c : Nat) (level : Bool) : (setLine c level s).mem = s.mem := rfl
@[simp] theorem setLine_turns (c : Nat) (level : Bool) : (setLine c level s).turns = s.turns := rfl
@[simp] theorem setLine_callbacks (c : Nat) (level : Bool) : (setLine c level s).callbacks = s.callbacks := rfl
@[simp] theorem setLine_requests (c : Nat) (level : Bool) : (setLine c level s).requests = s.requests := rfl
@[simp] theorem setLine_free (c : Nat) (level : Bool) : (setLine c level s).free = s.free := rfl

/-! ### setEnables -/

@[simp] theorem setEnables_cfg (c : Nat) (v : BitVec 1024) : (setEnables c v s).cfg = s.cfg := rfl
@[simp] theorem setEnables_regs (c : Nat) (v : BitVec 1024) : (setEnables c v s).regs = s.regs := rfl
@[simp] theorem setEnables_pc (c : Nat) (v : BitVec 1024) : (setEnables c v s).pc = s.pc := rfl
@[simp] theorem setEnables_priv (c : Nat) (v : BitVec 1024) : (setEnables c v s).priv = s.priv := rfl
@[simp] theorem setEnables_runState (c : Nat) (v : BitVec 1024) : (setEnables c v s).runState = s.runState := rfl
@[simp] theorem setEnables_ptMode (c : Nat) (v : BitVec 1024) : (setEnables c v s).ptMode = s.ptMode := rfl
@[simp] theorem setEnables_root (c : Nat) (v : BitVec 1024) : (setEnables c v s).root = s.root := rfl
@[simp] theorem setEnables_paging (c : Nat) (v : BitVec 1024) : (setEnables c v s).paging = s.paging := rfl
@[simp] theorem setEnables_ip (c : Nat) (v : BitVec 1024) : (setEnables c v s).ip = s.ip := rfl
@[simp] theorem setEnables_csr (c : Nat) (v : BitVec 1024) : (setEnables c v s).csr = s.csr := rfl
@[simp] theorem setEnables_tlb (c : Nat) (v : BitVec 1024) : (setEnables c v s).tlb = s.tlb := rfl
@[simp] theorem setEnables_resv (c : Nat) (v : BitVec 1024) : (setEnables c v s).resv = s.resv := rfl
@[simp] theorem setEnables_mem (c : Nat) (v : BitVec 1024) : (setEnables c v s).mem = s.mem := rfl
@[simp] theorem setEnables_turns (c : Nat) (v : BitVec 1024) : (setEnables c v s).turns = s.turns := rfl
@[simp] theorem setEnables_callbacks (c : Nat) (v : BitVec 1024) : (setEnables c v s).callbacks = s.callbacks := rfl
@[simp] theorem setEnables_requests (c : Nat) (v : BitVec 1024) : (setEnables c v s).requests = s.requests := rfl
@[simp] theorem setEnables_free (c : Nat) (v : BitVec 1024) : (setEnables c v s).free = s.free := rfl

/-! ### tlbFill -/

@[simp] theorem tlbFill_cfg (va : Word) (acc : Access) (p : Nat) : (tlbFill va acc p s).cfg = s.cfg := by unfold tlbFill; split <;> rfl
@[simp] theorem tlbFill_regs (va : Word) (acc : Access) (p : Nat) : (tlbFill va acc p s).regs = s.regs := by unfold tlbFill; split <;> rfl
@[simp] theorem tlbFill_pc (va : Word) (acc : Access) (p : Nat) : (tlbFill va acc p s).pc = s.pc := by unfold tlbFill; split <;> rfl
@[simp] theorem tlbFill_priv (va : Word) (acc : Access) (p : Nat) : (tlbFill va acc p s).priv = s.priv := by unfold tlbFill; split <;> rfl
@[simp] theorem tlbFill_runState (va : Word) (acc : Access) (p : Nat) : (tlbFill va acc p s).runState = s.runState := by unfold tlbFill; split <;> rfl
@[simp] theorem tlbFill_ptMode (va : Word) (acc : Access) (p : Nat) : (tlbFill va acc p s).ptMode = s.ptMode := by unfold tlbFill; split <;> rfl
@[simp] theorem tlbFill_root (va : Word) (acc : Access) (p : Nat) : (tlbFill va acc p s).root = s.root := by unfold tlbFill; split <;> rfl
@[simp] theorem tlbFill_paging (va : Word) (acc : Access) (p : Nat) : (tlbFill va acc p s).paging = s.paging := by unfold tlbFill; split <;> rfl
@[simp] theorem tlbFill_ip (va : Word) (acc : Access) (p : Nat) : (tlbFill va acc p s).ip = s.ip := by unfold tlbFill; split <;> rfl
@[simp] theorem tlbFill_csr (va : Word) (acc : Access) (p : Nat) : (tlbFill va acc p s).csr = s.csr := by unfold tlbFill; split <;> rfl
@[simp] theorem tlbFill_resv (va : Word) (acc : Access) (p : Nat) : (tlbFill va acc p s).resv = s.resv := by unfold tlbFill; split <;> rfl
@[simp] theorem tlbFill_plic (va : Word) (acc : Access) (p : Nat) : (tlbFill va acc p s).plic = s.plic := by unfold tlbFill; split <;> rfl
@[simp] theorem tlbFill_mem (va : Word) (acc : Access) (p : Nat) : (tlbFill va acc p s).mem = s.mem := by unfold tlbFill; split <;> rfl
@[simp] theorem tlbFill_turns (va : Word) (acc : Access) (p : Nat) : (tlbFill va acc p s).turns = s.turns := by unfold tlbFill; split <;> rfl
@[simp] theorem tlbFill_callbacks (va : Word) (acc : Access) (p : Nat) : (tlbFill va acc p s).callbacks = s.callbacks := by unfold tlbFill; split <;> rfl
@[simp] theorem tlbFill_requests (va : Word) (acc : Access) (p : Nat) : (tlbFill va acc p s).requests = s.requests := by unfold tlbFill; split <;> rfl
@[simp] theorem tlbFill_free (va : Word) (acc : Access) (p : Nat) : (tlbFill va acc p s).free = s.free := by unfold tlbFill; split <;> rfl

/-! ### writeBackPte -/

@[simp] theorem writeBackPte_cfg (up : Option (Nat × Word)) : (writeBackPte up s).cfg = s.cfg := by cases up <;> rfl
@[simp] theorem writeBackPte_regs (up : Option (Nat × Word)) : (writeBackPte up s).regs = s.regs := by cases up <;> rfl
@[simp] theorem writeBackPte_pc (up : Option (Nat × Word)) : (writeBackPte up s).pc = s.pc := by cases up <;> rfl
@[simp] theorem writeBackPte_priv (up : Option (Nat × Word)) : (writeBackPte up s).priv = s.priv := by cases up <;> rfl
@[simp] theorem writeBackPte_runState (up : Option (Nat × Word)) : (writeBackPte up s).runState = s.runState := by cases up <;> rfl
@[simp] theorem writeBackPte_ptMode (up : Option (Nat × Word)) : (writeBackPte up s).ptMode = s.ptMode := by cases up <;> rfl
@[simp] theorem writeBackPte_root (up : Option (Nat × Word)) : (writeBackPte up s).root = s.root := by cases up <;> rfl
@[simp] theorem writeBackPte_paging (up : Option (Nat × Word)) : (writeBackPte up s).paging = s.paging := by cases up <;> rfl
@[simp] theorem writeBackPte_ip (up : Option (Nat × Word)) : (writeBackPte up s).ip = s.ip := by cases up <;> rfl
@[simp] theorem writeBackPte_csr (up : Option (Nat × Word)) : (writeBackPte up s).csr = s.csr := by cases up <;> rfl
@[simp] theorem writeBackPte_tlb (up : Option (Nat × Word)) : (writeBackPte up s).tlb = s.tlb := by cases up <;> rfl
@[simp] theorem writeBackPte_resv (up : Option (Nat × Word)) : (writeBackPte up s).resv = s.resv := by cases up <;> rfl
@[simp] theorem writeBackPte_plic (up : Option (Nat × Word)) : (writeBackPte up s).plic = s.plic := by cases up <;> rfl
@[simp] theorem writeBackPte_turns (up : Option (Nat × Word)) : (writeBackPte up s).turns = s.turns := by cases up <;> rfl
@[simp] theorem writeBackPte_callbacks (up : Option (Nat × Word)) : (writeBackPte up s).callbacks = s.callbacks := by cases up <;> rfl
@[simp] theorem writeBackPte_requests (up : Option (Nat × Word)) : (writeBackPte up s).requests = s.requests := by cases up <;> rfl
@[simp] theorem writeBackPte_free (up : Option (Nat × Word)) : (writeBackPte up s).free = s.free := by cases up <;> rfl

/-! ### dropEntry -/

@[simp] theorem dropEntry_cfg (tag : TlbTag) : (dropEntry tag s).cfg = s.cfg := rfl
@[simp] theorem dropEntry_regs (tag : TlbTag) : (dropEntry tag s).regs = s.regs := rfl
@[simp] theorem dropEntry_pc (tag : TlbTag) : (dropEntry tag s).pc = s.pc := rfl
@[simp] theorem dropEntry_priv (tag : TlbTag) : (dropEntry tag s).priv = s.priv := rfl
@[simp] theorem dropEntry_runState (tag : TlbTag) : (dropEntry tag s).runState = s.runState := rfl
@[simp] theorem dropEntry_ptMode (tag : TlbTag) : (dropEntry tag s).ptMode = s.ptMode := rfl
@[simp] theorem dropEntry_root (tag : TlbTag) : (dropEntry tag s).root = s.root := rfl
@[simp] theorem dropEntry_paging (tag : TlbTag) : (dropEntry tag s).paging = s.paging := rfl
@[simp] theorem dropEntry_ip (tag : TlbTag) : (dropEntry tag s).ip = s.ip := rfl
@[simp] theorem dropEntry_csr (tag : TlbTag) : (dropEntry tag s).csr = s.csr := rfl
@[simp] theorem dropEntry_resv (tag : TlbTag) : (dropEntry tag s).resv = s.resv := rfl
@[simp] theorem dropEntry_plic (tag : TlbTag) : (dropEntry tag s).plic = s.plic := rfl
@[simp] theorem dropEntry_mem (tag : TlbTag) : (dropEntry tag s).mem = s.mem := rfl
@[simp] theorem dropEntry_turns (tag : TlbTag) : (dropEntry tag s).turns = s.turns := rfl
@[simp] theorem dropEntry_callbacks (tag : TlbTag) : (dropEntry tag s).callbacks = s.callbacks := rfl
@[simp] theorem dropEntry_requests (tag : TlbTag) : (dropEntry tag s).requests = s.requests := rfl
@[simp] theorem dropEntry_free (tag : TlbTag) : (dropEntry tag s).free = s.free := rfl

/-! ### platformInput -/

@[simp] theorem platformInput_cfg (bit : Nat) (level : Bool) : (platformInput bit level s).cfg = s.cfg := rfl
@[simp] theorem platformInput_regs (bit : Nat) (level : Bool) : (platformInput bit level s).regs = s.regs := rfl
@[simp] theorem platformInput_pc (bit : Nat) (level : Bool) : (platformInput bit level s).pc = s.pc := rfl
@[simp] theorem platformInput_priv (bit : Nat) (level : Bool) : (platformInput bit level s).priv = s.priv := rfl
@[simp] theorem platformInput_runState (bit : Nat) (level : Bool) : (platformInput bit level s).runState = s.runState := rfl
@[simp] theorem platformInput_ptMode (bit : Nat) (level : Bool) : (platformInput bit level s).ptMode = s.ptMode := rfl
@[simp] theorem platformInput_root (bit : Nat) (level : Bool) : (platformInput bit level s).root = s.root := rfl
@[simp] theorem platformInput_paging (bit : Nat) (level : Bool) : (platformInput bit level s).paging = s.paging := rfl
@[simp] theorem platformInput_csr (bit : Nat) (level : Bool) : (platformInput bit level s).csr = s.csr := rfl
@[simp] theorem platformInput_tlb (bit : Nat) (level : Bool) : (platformInput bit level s).tlb = s.tlb := rfl
@[simp] theorem platformInput_resv (bit : Nat) (level : Bool) : (platformInput bit level s).resv = s.resv := rfl
@[simp] theorem platformInput_plic (bit : Nat) (level : Bool) : (platformInput bit level s).plic = s.plic := rfl
@[simp] theorem platformInput_mem (bit : Nat) (level : Bool) : (platformInput bit level s).mem = s.mem := rfl
@[simp] theorem platformInput_turns (bit : Nat) (level : Bool) : (platformInput bit level s).turns = s.turns := rfl
@[simp] theorem platformInput_callbacks (bit : Nat) (level : Bool) : (platformInput bit level s).callbacks = s.callbacks := rfl
@[simp] theorem platformInput_requests (bit : Nat) (level : Bool) : (platformInput bit level s).requests = s.requests := rfl
@[simp] theorem platformInput_free (bit : Nat) (level : Bool) : (platformInput bit level s).free = s.free := rfl

/-! ### What the updates write -/

theorem State.setX_regs (r : RegIdx) (v : Word) :
    (s.setX r v).regs = if r = 0 then s.regs else s.regs.set r.toNat (s.cfg.xlen.trunc v) r.isLt := by
  unfold State.setX; split <;> rfl
/-- A register read after a register write; x0 reads 0 (R32). -/
theorem State.x_setX (r q : RegIdx) (v : Word) :
    (s.setX r v).x q = if q = r ∧ r ≠ 0 then s.cfg.xlen.trunc v else s.x q := by
  unfold State.x
  by_cases hq : q = 0
  · rw [if_pos hq, if_pos hq, if_neg]
    rintro ⟨h, hr⟩
    exact hr (h ▸ hq)
  · rw [if_neg hq, if_neg hq]
    simp only [State.setX_regs]
    by_cases hr : r = 0
    · simp only [if_pos hr]; exact (if_neg fun h => h.2 hr).symm
    · simp only [if_neg hr, Vector.getElem_set]
      by_cases h : q = r
      · subst h; exact (if_pos rfl).trans (if_pos ⟨rfl, hr⟩).symm
      · exact (if_neg fun e => h (BitVec.eq_of_toNat_eq e.symm)).trans (if_neg fun e => h e.1).symm
@[simp] theorem State.x_zero : s.x 0 = 0 := by simp [State.x]

@[simp] theorem State.setPc_pc (v : Word) : (s.setPc v).pc = s.cfg.xlen.trunc v := rfl
@[simp] theorem State.advance_pc (n : Nat) : (s.advance n).pc = s.cfg.xlen.trunc (s.pcPlus n) := rfl
@[simp] theorem State.tick_free : s.tick.free = s.free + 1 := rfl
@[simp] theorem State.setCsr_csr (k : Nat) (v : Word) :
    (s.setCsr k v).csr = Table.set 0 s.csr k (s.cfg.xlen.trunc v) := rfl
@[simp] theorem State.recomputePaging_paging : s.recomputePaging.paging = pagingOf s.priv s.ptMode := rfl
@[simp] theorem State.setPriv_priv (p : Priv) : (s.setPriv p).priv = p := rfl
@[simp] theorem State.setPriv_paging (p : Priv) : (s.setPriv p).paging = pagingOf p s.ptMode := rfl
@[simp] theorem tlbFlush_tlb : (tlbFlush s).tlb = [] := rfl
@[simp] theorem dropEntry_tlb (tag : TlbTag) : (dropEntry tag s).tlb = s.tlb.filter fun e => e.tag != tag := rfl
@[simp] theorem platformInput_ip (bit : Nat) (level : Bool) : (platformInput bit level s).ip = setBit s.ip bit level := rfl
@[simp] theorem enterM_priv (cv tval : Word) (i : Option Nat) : (enterM cv tval i s).priv = .machine := by
  simp only [enterM, State.setPc_priv, State.setPriv_priv]
@[simp] theorem enterS_priv (cv tval : Word) (i : Option Nat) : (enterS cv tval i s).priv = .supervisor := by
  simp only [enterS, State.setPc_priv, State.setPriv_priv]
@[simp] theorem enterM_paging (cv tval : Word) (i : Option Nat) : (enterM cv tval i s).paging = .bare := by
  simp only [enterM, State.setPc_paging, State.setPriv_paging, pagingOf]; simp
@[simp] theorem enterS_paging (cv tval : Word) (i : Option Nat) :
    (enterS cv tval i s).paging = pagingOf .supervisor s.ptMode := by
  simp only [enterS, State.setPc_paging, State.setPriv_paging, State.setCsr_ptMode]
@[simp] theorem setPriv_tlb (p : Priv) : (s.setPriv p).tlb = if pagingOf p s.ptMode = s.paging then s.tlb else [] := rfl

end Sys2Proof.Machine
end

