-- ==== Sys2Proof/Laws/Words.lean ====
section
/-! SUPPORT. Words at width XLEN: what truncation, extension and the width-XLEN functions are as numbers. -/

namespace Sys2Proof

theorem Xlen.bits_le (x : Xlen) : x.bits ≤ 64 := by cases x <;> decide
theorem Xlen.bits_pos (x : Xlen) : 0 < x.bits := by cases x <;> decide

/-! ### Truncation -/

@[simp] theorem Xlen.trunc_rv64 (v : Word) : Xlen.trunc .rv64 v = v := rfl

theorem Xlen.trunc_toNat (x : Xlen) (v : Word) : (x.trunc v).toNat = v.toNat % 2 ^ x.bits := by
  cases x
  · simp [Xlen.trunc, Xlen.bits]; omega
  · simp [Xlen.trunc, Xlen.bits, Nat.mod_eq_of_lt v.isLt]

theorem Xlen.trunc_getLsbD (x : Xlen) (v : Word) (i : Nat) :
    (x.trunc v).getLsbD i = (decide (i < x.bits) && v.getLsbD i) := by
  cases x
  · by_cases h : i < 32
    · have : i < 64 := by omega
      simp [Xlen.trunc, Xlen.bits, h, this]
    · simp [Xlen.trunc, Xlen.bits, h]
  · by_cases h : i < 64
    · simp [Xlen.trunc, Xlen.bits, h]
    · simp [Xlen.trunc, Xlen.bits, h, BitVec.getLsbD_of_ge v i (by omega)]

@[simp] theorem Xlen.trunc_trunc (x : Xlen) (v : Word) : x.trunc (x.trunc v) = x.trunc v := by
  cases x <;> simp [Xlen.trunc]

@[simp] theorem Xlen.trunc_zero (x : Xlen) : x.trunc 0 = 0 := by cases x <;> rfl

/-- A value of XLEN bits is one below 2^XLEN. -/
theorem Xlen.trunc_eq_self_iff (x : Xlen) (v : Word) : x.trunc v = v ↔ v.toNat < 2 ^ x.bits := by
  rw [BitVec.toNat_eq, Xlen.trunc_toNat]
  exact ⟨fun h => h ▸ Nat.mod_lt _ (by positivity), Nat.mod_eq_of_lt⟩

theorem Xlen.trunc_toNat_lt (x : Xlen) (v : Word) : (x.trunc v).toNat < 2 ^ x.bits :=
  (x.trunc_eq_self_iff _).1 (x.trunc_trunc v)

/-- Words that agree modulo 2^XLEN have the same truncation. -/
theorem Xlen.trunc_congr {x : Xlen} {a b : Word} (h : a.toNat % 2 ^ x.bits = b.toNat % 2 ^ x.bits) :
    x.trunc a = x.trunc b := by
  rw [BitVec.toNat_eq, Xlen.trunc_toNat, Xlen.trunc_toNat, h]

theorem Xlen.trunc_and (x : Xlen) (a b : Word) : x.trunc (a &&& b) = x.trunc a &&& x.trunc b := by
  apply BitVec.eq_of_getLsbD_eq; intro i _
  simp only [Xlen.trunc_getLsbD, BitVec.getLsbD_and]
  cases decide (i < x.bits) <;> simp

theorem Xlen.trunc_add (x : Xlen) (a b : Word) : x.trunc (x.trunc a + b) = x.trunc (a + b) := by
  apply Xlen.trunc_congr
  have h : (2 ^ x.bits) ∣ 2 ^ 64 := by cases x <;> decide
  rw [BitVec.toNat_add, BitVec.toNat_add, Nat.mod_mod_of_dvd _ h, Nat.mod_mod_of_dvd _ h, Xlen.trunc_toNat, Nat.mod_add_mod]

/-! ### Numbers -/

/-- The XLEN-bit word of a number: what a result modulo 2^XLEN is. -/
theorem Xlen.trunc_ofInt (x : Xlen) (v : Int) : x.trunc (BitVec.ofInt 64 v) = BitVec.ofInt 64 (v % (2 : Int) ^ x.bits) := by
  rw [BitVec.toNat_eq, Xlen.trunc_toNat, BitVec.toNat_ofInt, BitVec.toNat_ofInt]
  cases x <;> simp only [Xlen.bits] <;> omega

theorem Xlen.u_eq (x : Xlen) (v : Word) : x.u v = v.toNat % 2 ^ x.bits := by
  cases x
  · simp [Xlen.u, Xlen.bits]
  · simp [Xlen.u, Xlen.bits, Nat.mod_eq_of_lt v.isLt]

theorem Xlen.s_eq (x : Xlen) (v : Word) : x.s v = Int.bmod (v.toNat % 2 ^ x.bits : Nat) (2 ^ x.bits) := by
  cases x
  · simp [Xlen.s, Xlen.bits, BitVec.toInt_eq_toNat_bmod]
  · simp [Xlen.s, Xlen.bits, BitVec.toInt_eq_toNat_bmod, Nat.mod_eq_of_lt v.isLt]

/-- `sext_N` as a number modulo 2^XLEN. -/
theorem Xlen.sext_eq (x : Xlen) {n : Nat} (v : BitVec n) :
    x.sext v = BitVec.ofInt 64 (v.toInt % (2 : Int) ^ x.bits) := by
  rw [Xlen.sext, ← Xlen.trunc_ofInt, ← BitVec.signExtend.eq_1]

/-- A width-XLEN function of words, as a word. -/
theorem Xlen.lift_rv64 (f : BinOp) (a b : Word) : Xlen.lift .rv64 f a b = f 64 a b := rfl

theorem Xlen.lift_rv32 (f : BinOp) (a b : Word) :
    Xlen.lift .rv32 f a b = (f 32 (a.setWidth 32) (b.setWidth 32)).setWidth 64 := rfl

@[simp] theorem Xlen.trunc_lift (x : Xlen) (f : BinOp) (a b : Word) : x.trunc (x.lift f a b) = x.lift f a b := by
  cases x <;> simp [Xlen.trunc, Xlen.lift]

@[simp] theorem Xlen.trunc_sext (x : Xlen) {n : Nat} (v : BitVec n) : x.trunc (x.sext v) = x.sext v := by
  simp [Xlen.sext]

/-! ### Bits -/

/-- One bit set leaves the others. -/
theorem getLsbD_setBit {n : Nat} (v : BitVec n) (i : Nat) (b : Bool) (j : Nat) (hj : j < n) :
    (setBit v i b).getLsbD j = if j = i then b else v.getLsbD j := by
  have one : (BitVec.ofNat n 1 <<< i).getLsbD j = decide (j = i) := by
    rw [BitVec.getLsbD_shiftLeft, BitVec.getLsbD_ofNat]
    by_cases h : j = i
    · subst h; simp [hj]; omega
    · by_cases h2 : j < i
      · simp [h, h2]
      · have : j - i ≠ 0 := by omega
        simp [h]
        intros
        have := Nat.testBit_one_eq_true_iff_self_eq_zero (i := j - i)
        simp_all
  unfold setBit
  split <;> rename_i hb
  · simp only [BitVec.getLsbD_or, one]; by_cases h : j = i <;> simp [h, hb]
  · simp only [BitVec.getLsbD_and, BitVec.getLsbD_not, one, hj]; by_cases h : j = i <;> simp [h, hb]

/-- A field replaced leaves the other bits. -/
theorem getLsbD_setField (v : Word) (lo : Nat) {w : Nat} (f : BitVec w) (j : Nat) (hj : j < 64) :
    (setField v lo f).getLsbD j = if lo ≤ j ∧ j < lo + w then f.getLsbD (j - lo) else v.getLsbD j := by
  simp only [setField, BitVec.getLsbD_or, BitVec.getLsbD_and, BitVec.getLsbD_not, BitVec.getLsbD_shiftLeft,
    BitVec.getLsbD_setWidth, BitVec.getLsbD_allOnes, hj]
  by_cases h1 : lo ≤ j
  · by_cases h2 : j < lo + w
    · have a : ¬ j < lo := by omega
      have b : j - lo < w := by omega
      have c : j - lo < 64 := by omega
      simp [h1, h2, a, b, c]
    · have a : ¬ j < lo := by omega
      simp [h1, h2, a, BitVec.getLsbD_of_ge f (j - lo) (by omega)]
      omega
  · have a : j < lo := by omega
    simp [h1, a]

/-- A value with its low `k` bits cleared: the multiple of 2^k at or below it. -/
theorem clearLow_toNat (v : Word) (k : Nat) :
    (v &&& ~~~(BitVec.ofNat 64 (2 ^ k - 1))).toNat = v.toNat / 2 ^ k * 2 ^ k := by
  have e : v &&& ~~~(BitVec.ofNat 64 (2 ^ k - 1)) = (v >>> k) <<< k := by
    apply BitVec.eq_of_getLsbD_eq; intro j hj
    simp only [BitVec.getLsbD_and, BitVec.getLsbD_not, BitVec.getLsbD_shiftLeft, BitVec.getLsbD_ushiftRight,
      BitVec.getLsbD_ofNat, Nat.testBit_two_pow_sub_one, hj]
    by_cases h : j < k
    · simp [h]
    · have : k + (j - k) = j := by omega
      simp [h, this]
  rw [e, BitVec.toNat_shiftLeft, BitVec.toNat_ushiftRight, Nat.shiftLeft_eq, Nat.shiftRight_eq_div_pow, Nat.mod_eq_of_lt]
  exact Nat.lt_of_le_of_lt (Nat.div_mul_le_self _ _) v.isLt

theorem clear1_toNat (v : Word) : (v &&& ~~~1#64).toNat = v.toNat / 2 * 2 := clearLow_toNat v 1
theorem clear3_toNat (v : Word) : (v &&& ~~~3#64).toNat = v.toNat / 4 * 4 := clearLow_toNat v 2

theorem field_eq (v : Word) (lo w : Nat) : field v lo w = v.toNat / 2 ^ lo % 2 ^ w := by
  simp [field, BitVec.extractLsb'_toNat, Nat.shiftRight_eq_div_pow]

end Sys2Proof
end

