-- ==== Sys2Proof/Laws/Frames.lean ====
section
/-! SUPPORT. What the shared operations leave alone: each gives back the state it was given with the named fields new. -/

namespace Sys2Proof.Machine

/-! ### The PLIC -/

theorem foldl_frame {α : Type} (Q : State → State → Prop) (hr : ∀ s, Q s s) (ht : ∀ s t u, Q s t → Q t u → Q s u)
    (f : State → α → State) (hf : ∀ s a, Q s (f s a)) (l : List α) (s : State) : Q s (l.foldl f s) := by
  induction l generalizing s with
  | nil => exact hr s
  | cons a l ih => exact ht _ _ _ (hf s a) (ih _)

/-- Only the PLIC's state and the interrupt-pending word differ. -/
def PlicFrame (s t : State) : Prop := t = { s with plic := t.plic, ip := t.ip }

theorem PlicFrame.refl (s : State) : PlicFrame s s := rfl

theorem PlicFrame.trans (s t u : State) (h : PlicFrame s t) (h' : PlicFrame t u) : PlicFrame s u := by
  rw [PlicFrame, h', h]

theorem plicSelect_frame (c : Nat) (keep : Bool) (s : State) : PlicFrame s (plicSelect c keep s) := rfl
theorem setPending_frame (k : Nat) (b : Bool) (s : State) : PlicFrame s (setPending k b s) := rfl
theorem setLine_frame (c : Nat) (b : Bool) (s : State) : PlicFrame s (setLine c b s) := rfl
theorem setEnables_frame (c : Nat) (v : BitVec 1024) (s : State) : PlicFrame s (setEnables c v s) := rfl

theorem raiseContext_frame (s : State) (c : Nat) : PlicFrame s (raiseContext s c) := by
  unfold raiseContext
  dsimp only
  split
  · exact plicSelect_frame c true s
  · exact PlicFrame.trans _ _ _ (plicSelect_frame c true s) (setLine_frame c true _)

theorem plicRaise_frame {k : Nat} {s t : State} (h : plicRaise k s = some t) : PlicFrame s t := by
  unfold plicRaise at h
  split at h
  · simp at h
  · injection h with h
    exact h ▸ PlicFrame.trans _ _ _ (setPending_frame k true s)
      (foldl_frame PlicFrame PlicFrame.refl PlicFrame.trans _ raiseContext_frame _ _)

theorem claimRead_frame (c : Nat) (s : State) : PlicFrame s (claimRead c s).2 := by
  have h : ∀ t, PlicFrame s t → PlicFrame s (if t.plic.claimOf c = 0 then t else setPending (t.plic.claimOf c) false t) := by
    intro t ht
    split
    · exact ht
    · exact PlicFrame.trans _ _ _ ht (setPending_frame _ _ _)
  unfold claimRead
  dsimp only
  split
  · exact h _ (plicSelect_frame c false s)
  · exact h s rfl

theorem completeWrite_frame (c : Nat) (s : State) : PlicFrame s (completeWrite c s) :=
  PlicFrame.trans _ _ _ (plicSelect_frame c false s) (setLine_frame c _ _)

theorem raiseSource_frame (k : Nat) (s : State) : PlicFrame s (raiseSource k s) := by
  unfold raiseSource
  cases h : plicRaise k s with
  | none => rfl
  | some t => exact plicRaise_frame h

theorem raiseAll_frame (l : List Nat) (s : State) : PlicFrame s (raiseAll l s) :=
  foldl_frame PlicFrame PlicFrame.refl PlicFrame.trans _ (fun s k => raiseSource_frame k s) l s

/-- A device event with no callbacks scheduled is its effect. -/
@[simp] theorem withCallbacks_nil {α : Type} (f : State → α × State) {s : State} (h : s.callbacks = []) :
    withCallbacks f s = f s := by
  rw [withCallbacks, h]

/-- What a device event changes: what its effect changes, what raises change, and the callbacks to come. -/
theorem withCallbacks_keeps {α : Type} (Q : State → State → Prop) (ht : ∀ {s t u}, Q s t → Q t u → Q s u)
    (hc : ∀ s l, Q s { s with callbacks := l }) (hr : ∀ s l, Q s (raiseAll l s)) (f : State → α × State)
    (hf : ∀ s, Q s (f s).2) (s : State) : Q s (withCallbacks f s).2 := by
  unfold withCallbacks
  split
  · exact hf s
  · exact ht (hc s _) (ht (hr _ _) (ht (hf _) (hr _ _)))

/-- An access to the window changes the PLIC's state, ip, the count of free values and the callbacks to come, and nothing else. -/
def WindowFrame (s t : State) : Prop := t = { s with plic := t.plic, ip := t.ip, free := t.free, callbacks := t.callbacks }

theorem WindowFrame.trans (s t u : State) (h : WindowFrame s t) (h' : WindowFrame t u) : WindowFrame s u := by
  rw [WindowFrame, h', h]

theorem PlicFrame.window {s t : State} (h : PlicFrame s t) : WindowFrame s t := by
  rw [WindowFrame, h]

theorem plicRead_frame (r : PlicReg) (s : State) : WindowFrame s (plicRead r s).2 := by
  cases r with
  | claim c => exact (claimRead_frame c s).window
  | enable c w => unfold plicRead; dsimp only; split <;> rfl
  | _ => rfl

theorem plicWrite_frame (r : PlicReg) (data : BitVec 32) (s : State) : WindowFrame s (plicWrite r data s) := by
  cases r with
  | claim c => exact (completeWrite_frame c s).window
  | priority k => unfold plicWrite; dsimp only; split <;> rfl
  | enable c w => unfold plicWrite; dsimp only; split <;> rfl
  | _ => rfl

theorem plicRegEffect_frame (acc : Access) (r : PlicReg) (data : BitVec 32) (s : State) :
    WindowFrame s (plicRegEffect acc r data s).2 := by
  cases acc
  · exact plicRead_frame r s
  · exact plicWrite_frame r data s
  · exact plicRead_frame r s

theorem plicRegAccess_frame (acc : Access) (r : PlicReg) (data : BitVec 32) (s : State) :
    WindowFrame s (plicRegAccess acc r data s).2 :=
  withCallbacks_keeps WindowFrame (WindowFrame.trans _ _ _) (fun _ _ => rfl) (fun s l => (raiseAll_frame l s).window) _
    (plicRegEffect_frame acc r data) s

/-- A request to an external device changes what a window access changes, and is recorded. -/
def DeviceFrame (s t : State) : Prop :=
  t = { s with plic := t.plic, ip := t.ip, free := t.free, callbacks := t.callbacks, requests := t.requests }

theorem DeviceFrame.trans {s t u : State} (h : DeviceFrame s t) (h' : DeviceFrame t u) : DeviceFrame s u := by
  rw [DeviceFrame, h', h]

theorem deviceAccess_frame (q : DeviceRequest) (s : State) : DeviceFrame s (deviceAccess q s).2 :=
  withCallbacks_keeps DeviceFrame DeviceFrame.trans (fun _ _ => rfl)
    (fun s l => by rw [DeviceFrame, raiseAll_frame l s]) (deviceReply q) (fun s => by unfold deviceReply; rfl) s

theorem raiseAll_requests (l : List Nat) (s : State) : (raiseAll l s).requests = s.requests := by rw [raiseAll_frame l s]

/-- Every request to an external device is recorded. -/
theorem deviceAccess_requests (q : DeviceRequest) (s : State) : (deviceAccess q s).2.requests = q :: s.requests := by
  unfold deviceAccess withCallbacks
  split <;> simp [raiseAll_requests, deviceReply, State.tick]

/-- An access to the window is none, one or two register accesses. -/
theorem plicAccess_state (off n : Nat) (acc : Access) (data : Word) (s : State) :
    (plicAccess off n acc data s).2 = s ∨
    (∃ r d, (plicAccess off n acc data s).2 = (plicRegAccess acc r d s).2) ∨
    (∃ r q d e, (plicAccess off n acc data s).2 = (plicRegAccess acc q e (plicRegAccess acc r d s).2).2) := by
  unfold plicAccess
  split
  · exact .inl rfl
  · split
    · split
      · exact .inr (.inl ⟨_, _, rfl⟩)
      · exact .inl rfl
    · split
      · split
        · exact .inr (.inr ⟨_, _, _, _, rfl⟩)
        · exact .inl rfl
      · exact .inl rfl

theorem plicAccess_frame (off n : Nat) (acc : Access) (data : Word) (s : State) :
    WindowFrame s (plicAccess off n acc data s).2 := by
  rcases plicAccess_state off n acc data s with h | ⟨r, d, h⟩ | ⟨r, q, d, e, h⟩ <;> rw [h]
  · rfl
  · exact plicRegAccess_frame acc r d s
  · exact WindowFrame.trans _ _ _ (plicRegAccess_frame acc r d s) (plicRegAccess_frame acc q e _)

/-! ### CSR access -/

/-- A CSR access changes the CSR values, ip and the translation registers, and nothing else. -/
def CsrFrame (s t : State) : Prop :=
  t = { s with csr := t.csr, ip := t.ip, ptMode := t.ptMode, root := t.root, paging := t.paging, tlb := t.tlb }

theorem CsrFrame.trans (s t u : State) (h : CsrFrame s t) (h' : CsrFrame t u) : CsrFrame s u := by
  rw [CsrFrame, h', h]

theorem satpWrite_frame (v : Word) (s : State) : CsrFrame s (satpWrite v s) := by
  unfold satpWrite
  split <;> rfl

/-- A CSR access that answers is the access its entry's policy makes, at sufficient privilege. -/
theorem csrAccess_some {a : BitVec 12} {op : CsrOp} {v : Word} {s : State} {r : Word × State}
    (h : csrAccess a op v s = some r) :
    (a.extractLsb' 8 2).toNat ≤ s.priv.code ∧
    policyAccess (csrPolicy s.cfg (a.extractLsb' 8 2) (a.extractLsb' 0 8)) (csrKey (a.extractLsb' 8 2) (a.extractLsb' 0 8)) op v s
      = some r := by
  unfold csrAccess at h
  dsimp only at h
  split at h
  · simp at h
  · exact ⟨by omega, h⟩

theorem policyAccess_frame {pol : CsrPolicy} {k : Nat} {op : CsrOp} {v : Word} {s : State} {r : Word × State}
    (h : policyAccess pol k op v s = some r) : CsrFrame s r.2 := by
  unfold policyAccess at h
  split at h
  · injection h with h; subst h; rfl
  · dsimp only at h
    split at h
    · injection h with h; subst h; rfl
    · simp at h
  · simp at h
  · injection h with h; subst h; rfl
  · injection h with h; subst h; rfl
  · injection h with h; subst h; exact satpWrite_frame _ s

theorem csrAccess_frame {a : BitVec 12} {op : CsrOp} {v : Word} {s : State} {r : Word × State}
    (h : csrAccess a op v s = some r) : CsrFrame s r.2 := policyAccess_frame (csrAccess_some h).2

/-! ### Traps -/

/-- A trap or a return changes the CSR values, priv, pc, the run state, the paging flag and the TLB, and nothing else. -/
def TrapOnly (s t : State) : Prop :=
  t = { s with csr := t.csr, priv := t.priv, pc := t.pc, runState := t.runState, paging := t.paging, tlb := t.tlb }

theorem TrapOnly.of {s t : State} (h : t.cfg = s.cfg ∧ t.regs = s.regs ∧ t.ptMode = s.ptMode ∧ t.root = s.root ∧ t.ip = s.ip ∧
    t.resv = s.resv ∧ t.plic = s.plic ∧ t.mem = s.mem ∧ t.turns = s.turns ∧ t.callbacks = s.callbacks ∧ t.requests = s.requests ∧
    t.free = s.free) : TrapOnly s t := by
  obtain ⟨h1, h2, h3, h4, h5, h6, h7, h8, h9, h10, h11, h12⟩ := h
  cases s; cases t
  simp_all [TrapOnly]

theorem enterM_frame (cv tval : Word) (i : Option Nat) (s : State) : TrapOnly s (enterM cv tval i s) := TrapOnly.of (by simp)

theorem enterS_frame (cv tval : Word) (i : Option Nat) (s : State) : TrapOnly s (enterS cv tval i s) := TrapOnly.of (by simp)

theorem TrapOnly.running {s t : State} (h : TrapOnly s t) : TrapOnly s { t with runState := .running } := by
  rw [TrapOnly, h]

theorem takeException_frame (c : Cause) (tval : Word) (s : State) : TrapOnly s (takeException c tval s) := by
  unfold takeException
  dsimp only
  split
  · exact (enterS_frame _ _ _ s).running
  · exact (enterM_frame _ _ _ s).running

theorem takeInterrupt_frame (i : Nat) (s : State) : TrapOnly s (takeInterrupt i s) := by
  unfold takeInterrupt
  dsimp only
  split
  · exact (enterS_frame _ _ _ s).running
  · exact (enterM_frame _ _ _ s).running

theorem raise_frame (c : Cause) (tval : Word) (s : State) : TrapOnly s (raise c tval s) := by
  unfold raise
  split
  · rfl
  · exact takeException_frame c tval s

theorem returnM_frame (s : State) : TrapOnly s (returnM s) := by
  unfold returnM
  dsimp only
  split
  · exact takeException_frame _ _ s
  · have h : ∀ a (e : Priv) (f : Word), TrapOnly s { ((s.setCsr kMstatus a).setPriv e).setPc f with runState := .running } :=
      fun _ _ _ => rfl
    exact h _ _ _

theorem returnS_frame (s : State) : TrapOnly s (returnS s) := by
  have h : ∀ a (e : Priv) (f : Word), TrapOnly s { ((s.setCsr kMstatus a).setPriv e).setPc f with runState := .running } :=
    fun _ _ _ => rfl
  exact h _ _ _

theorem requestXret_frame (l : XretLevel) (s : State) : TrapOnly s (requestXret l s) := by
  unfold requestXret
  split
  · rfl
  · exact returnM_frame s
  · exact returnS_frame s

/-! ### Other agents -/

/-- The external trap unit changes what a trap changes, and satp's mirror. -/
theorem trapUnitStep_frame (m : TrapMove) (s : State) :
    trapUnitStep m s = { s with
      csr := (trapUnitStep m s).csr, priv := (trapUnitStep m s).priv, pc := (trapUnitStep m s).pc,
      runState := (trapUnitStep m s).runState, ptMode := (trapUnitStep m s).ptMode, root := (trapUnitStep m s).root,
      paging := (trapUnitStep m s).paging, tlb := (trapUnitStep m s).tlb, ip := (trapUnitStep m s).ip } := by
  have h : CsrFrame s (m.csrs.foldl trapUnitCsr s) := by
    refine foldl_frame CsrFrame (fun _ => rfl) CsrFrame.trans _ (fun s w => ?_) _ _
    unfold trapUnitCsr
    split
    · exact satpWrite_frame _ s
    · rfl
  unfold trapUnitStep
  dsimp only
  generalize m.csrs.foldl trapUnitCsr s = t at h
  rw [h]
  rfl

/-- No move of another agent changes the configuration, the registers, RAM, the reservation, or the model's own fields. -/
theorem agentMove_frame (m : Turn) (s : State) :
    (agentMove m s).cfg = s.cfg ∧ (agentMove m s).regs = s.regs ∧ (agentMove m s).mem = s.mem ∧
    (agentMove m s).resv = s.resv ∧ (agentMove m s).turns = s.turns ∧ (agentMove m s).callbacks = s.callbacks ∧
    (agentMove m s).requests = s.requests ∧ (agentMove m s).free = s.free := by
  cases m with
  | raiseSource k =>
    have e : agentMove (.raiseSource k) s = raiseSource k s := rfl
    rw [e, raiseSource_frame k s]; simp
  | trapUnit m =>
    unfold agentMove
    dsimp only
    split
    · rw [trapUnitStep_frame]; simp
    · simp
  | _ => simp [agentMove]

end Sys2Proof.Machine
end

