-- ==== Sys2Proof/Laws/Tlb.lean ====
section
/-! SUPPORT. The TLB: lookup, fill, and the form that every operation on it keeps. -/

namespace Sys2Proof.Machine

theorem tlbLookup_some {t : List TlbEntry} {tag : TlbTag} {e : TlbEntry} (h : tlbLookup t tag = some e) : e ∈ t ∧ e.tag = tag :=
  ⟨List.mem_of_find?_eq_some h, by have := List.find?_some h; simpa using this⟩

theorem tlbLookup_none {t : List TlbEntry} {tag : TlbTag} (h : tlbLookup t tag = none) : ∀ e ∈ t, e.tag ≠ tag := by
  intro e he
  have := List.find?_eq_none.1 h e he
  simpa using this

/-- With one entry for a tag, a listed entry is the one its tag finds. -/
theorem tlbLookup_eq {t : List TlbEntry} (h : t.Pairwise fun a b => a.tag ≠ b.tag) {e : TlbEntry} (he : e ∈ t) :
    tlbLookup t e.tag = some e := by
  induction t with
  | nil => simp at he
  | cons a t ih =>
    rw [List.pairwise_cons] at h
    by_cases hq : a.tag = e.tag
    · rcases List.mem_cons.1 he with rfl | he
      · simp [tlbLookup]
      · exact absurd hq (h.1 e he)
    · have hne : e ≠ a := fun hc => hq (hc ▸ rfl)
      have := ih h.2 ((List.mem_cons.1 he).resolve_left hne)
      simpa [tlbLookup, List.find?_cons, hq] using this

/-- What the list holds after an entry is put in its place. -/
theorem mem_tlbPut (n : TlbEntry) (t : List TlbEntry) (h : t.Pairwise fun a b => a.tag ≠ b.tag) (e : TlbEntry) :
    e ∈ tlbPut n t ↔ e = n ∨ (e ∈ t ∧ e.tag ≠ n.tag) := by
  induction t with
  | nil => simp [tlbPut]
  | cons a t ih =>
    rw [List.pairwise_cons] at h
    rw [tlbPut]
    split
    · rename_i ha
      rw [List.mem_cons, List.mem_cons]
      constructor
      · rintro (rfl | he)
        · exact .inl rfl
        · exact .inr ⟨.inr he, fun hc => h.1 e he (ha.trans hc.symm)⟩
      · rintro (rfl | ⟨rfl | he, hc⟩)
        · exact .inl rfl
        · exact absurd ha hc
        · exact .inr he
    · rename_i ha
      rw [List.mem_cons, List.mem_cons, ih h.2]
      constructor
      · rintro (rfl | rfl | ⟨he, hc⟩)
        · exact .inr ⟨.inl rfl, ha⟩
        · exact .inl rfl
        · exact .inr ⟨.inr he, hc⟩
      · rintro (rfl | ⟨rfl | he, hc⟩)
        · exact .inr (.inl rfl)
        · exact .inl rfl
        · exact .inr (.inr ⟨he, hc⟩)

/-- Putting an entry keeps one entry for a tag. -/
theorem tlbPut_oneEach (n : TlbEntry) (t : List TlbEntry) (h : t.Pairwise fun a b => a.tag ≠ b.tag) :
    (tlbPut n t).Pairwise fun a b => a.tag ≠ b.tag := by
  induction t with
  | nil => simp [tlbPut]
  | cons a t ih =>
    have h' := h
    rw [List.pairwise_cons] at h
    rw [tlbPut]
    split
    · rename_i ha
      exact List.pairwise_cons.2 ⟨fun e he => ha ▸ h.1 e he, h.2⟩
    · rename_i ha
      refine List.pairwise_cons.2 ⟨fun e he => ?_, ih h.2⟩
      rcases (mem_tlbPut n t h.2 e).1 he with rfl | ⟨he, _⟩
      · exact ha
      · exact h.1 e he

@[simp] theorem TlbEntry.grant_tag (e : TlbEntry) (acc : Access) : (e.grant acc).tag = e.tag := by cases acc <;> rfl
@[simp] theorem TlbEntry.grant_ppage (e : TlbEntry) (acc : Access) : (e.grant acc).ppage = e.ppage := by cases acc <;> rfl
@[simp] theorem TlbEntry.grant_allows (e : TlbEntry) (acc : Access) : (e.grant acc).allows acc = true := by cases acc <;> rfl

theorem TlbEntry.allows_grant (e : TlbEntry) (acc b : Access) (h : e.allows b = true) : (e.grant acc).allows b = true := by
  cases acc <;> cases b <;> first | rfl | exact h

/-- The entry that a fill inside RAM puts: for the access, with its right and the page. -/
theorem tlbFill_entry (va : Word) (acc : Access) (p : Nat) (s : State) (h : s.cfg.inRam p 1 = true) :
    ∃ n, (tlbFill va acc p s).tlb = tlbPut n s.tlb ∧ n.tag = s.tlbTag va ∧ n.allows acc = true ∧ n.ppage = p / 4096 ∧
      ∀ f, tlbLookup s.tlb (s.tlbTag va) = some f → f.ppage = p / 4096 → ∀ b, f.allows b = true → n.allows b = true := by
  unfold tlbFill
  rw [if_pos h]
  cases hl : tlbLookup s.tlb (s.tlbTag va) with
  | none => exact ⟨_, rfl, by simp, by simp, by simp, by simp⟩
  | some f =>
    by_cases hp : f.ppage = p / 4096
    · refine ⟨_, rfl, ?_, ?_, ?_, ?_⟩
      · simp [Option.filter, hp, (tlbLookup_some hl).2]
      · simp
      · simp [Option.filter, hp]
      · rintro g hg _ b hb
        injection hg with hg
        subst hg
        simpa [Option.filter, hp] using TlbEntry.allows_grant f acc b hb
    · refine ⟨_, rfl, by simp [Option.filter, hp], by simp, by simp [Option.filter, hp], ?_⟩
      rintro g hg hgp
      injection hg with hg
      exact absurd (hg ▸ hgp) hp

/-- An entry that serves an access is listed, is for it and allows it. -/
theorem tlbMatch_some {va : Word} {acc : Access} {s : State} {e : TlbEntry} (h : tlbMatch va acc s = some e) :
    e ∈ s.tlb ∧ e.tag = s.tlbTag va ∧ e.allows acc = true := by
  unfold tlbMatch at h
  rw [Option.filter_eq_some_iff] at h
  exact ⟨(tlbLookup_some h.1).1, (tlbLookup_some h.1).2, h.2⟩

end Sys2Proof.Machine
end

