-- ==== Sys2Proof/Laws/Access.lean ====
section
/-! SUPPORT. Memory accesses that reach RAM: what a translation, a sub-access and a whole access answer. -/

namespace Sys2Proof

/-- A little-endian read in two parts. -/
theorem Memory.readLE_add (m : Memory) (p j k : Nat) :
    Memory.readLE m p (j + k) = Memory.readLE m p j ||| Memory.readLE m (p + j) k <<< (8 * j) := by
  induction j generalizing p with
  | zero => simp [Memory.readLE]
  | succ j ih =>
    rw [show j + 1 + k = j + k + 1 by omega, Memory.readLE, Memory.readLE, ih, BitVec.shiftLeft_or_distrib, ← BitVec.shiftLeft_add,
      show p + 1 + j = p + (j + 1) by omega, show 8 * j + 8 = 8 * (j + 1) by omega, BitVec.or_assoc]

/-- A little-endian write in two parts. -/
theorem Memory.writeLE_add (m : Memory) (p j k : Nat) (v : Word) :
    Memory.writeLE m p (j + k) v = Memory.writeLE (Memory.writeLE m p j v) (p + j) k (v >>> (8 * j)) := by
  induction j generalizing m p v with
  | zero => simp [Memory.writeLE]
  | succ j ih =>
    rw [show j + 1 + k = j + k + 1 by omega, Memory.writeLE, Memory.writeLE, ih, ← BitVec.shiftRight_add,
      show p + 1 + j = p + (j + 1) by omega, show 8 + 8 * j = 8 * (j + 1) by omega]

namespace Machine

/-- The part of an access inside RAM is inside RAM. -/
theorem inRam_part {c : Config} {p n q k : Nat} (h : c.inRam p n = true) (h1 : p ≤ q) (h2 : q + k ≤ p + n) :
    c.inRam q k = true := by
  simp [Config.inRam] at *; omega

/-! ### The TLB through a translation -/

/-- A fill keeps the TLB's form; where it maps the page to itself the identity too. -/
theorem tlbFill_ok (va : Word) (acc : Access) (p : Nat) (s : State) (h : TlbOk s) (hw : s.cfg.wf = true)
    (hp : s.paging = .bare → p = va.toNat) : TlbOk (tlbFill va acc p s) := by
  by_cases hr : s.cfg.inRam p 1 = true
  · obtain ⟨n, hn, ht, -, hpp, -⟩ := tlbFill_entry va acc p s hr
    have hc : (tlbFill va acc p s).cfg = s.cfg ∧ (tlbFill va acc p s).paging = s.paging := by
      unfold tlbFill; split <;> exact ⟨rfl, rfl⟩
    refine ⟨?_, ?_, ?_⟩
    · rw [hn]; exact tlbPut_oneEach _ _ h.oneEach
    · intro e he
      rw [hc.1]
      rw [hn, mem_tlbPut _ _ h.oneEach] at he
      rcases he with rfl | he
      · rw [hpp]
        simp [Config.wf, Config.inRam] at hw hr ⊢
        omega
      · exact h.inside e he.1
    · intro hb e he
      rw [hc.2] at hb
      rw [hn, mem_tlbPut _ _ h.oneEach] at he
      rcases he with rfl | he
      · rw [hpp, ht, hp hb]; rfl
      · exact h.identity hb e he.1
  · have : tlbFill va acc p s = s := by unfold tlbFill; rw [if_neg hr]
    rw [this]; exact h

/-- A fill changes the TLB at most. -/
theorem tlbFill_eq (va : Word) (acc : Access) (p : Nat) (s : State) :
    tlbFill va acc p s = { s with tlb := (tlbFill va acc p s).tlb } := by
  unfold tlbFill; split <;> rfl

/-- What a TLB needs for the identity: one entry for a tag, each mapping its page to itself. -/
structure TlbIdentity (t : List TlbEntry) : Prop where
  oneEach : t.Pairwise fun a b => a.tag ≠ b.tag
  identity : ∀ e ∈ t, e.ppage = e.tag.vpn

theorem TlbOk.toIdentity {s : State} (h : TlbOk s) (hb : s.paging = .bare) : TlbIdentity s.tlb := ⟨h.oneEach, h.identity hb⟩

/-- Without translation an address is its own, whether the TLB serves it or not. -/
theorem translate_bare (va : Word) (acc : Access) (s : State) (hb : s.paging = .bare) (ht : TlbIdentity s.tlb) :
    ∃ tlb, translate va acc s = .ok va.toNat { s with tlb := tlb } ∧ TlbIdentity tlb := by
  have hw : walk va acc s = .page va.toNat none := by simp [walk, hb]
  unfold translate
  split
  · rename_i e he
    obtain ⟨hm, htag, -⟩ := tlbMatch_some he
    have hp : e.ppage * 4096 + va.toNat % 4096 = va.toNat := by
      rw [ht.identity e hm, htag]; simp [State.tlbTag]; omega
    simp only [hp, hw, ↓reduceIte]
    exact ⟨s.tlb, rfl, ht⟩
  · refine ⟨(tlbFill va acc va.toNat s).tlb, ?_, ?_⟩
    · rw [translateByWalk, hw]
      simp only [writeBackPte]
      rw [← tlbFill_eq]
    · by_cases hr : s.cfg.inRam va.toNat 1 = true
      · obtain ⟨n, hn, htag, -, hpp, -⟩ := tlbFill_entry va acc va.toNat s hr
        rw [hn]
        refine ⟨tlbPut_oneEach _ _ ht.oneEach, fun e he => ?_⟩
        rcases (mem_tlbPut _ _ ht.oneEach e).1 he with rfl | he
        · rw [hpp, htag]; rfl
        · exact ht.identity e he.1
      · have : tlbFill va acc va.toNat s = s := by unfold tlbFill; rw [if_neg hr]
        rw [this]; exact ht

/-- Through the page tables: where a walk gives `p` and the entry `up` to write back, and a matching entry of the TLB agrees, the
translation is `p`, after the write-back. -/
theorem translate_mapped (va : Word) (acc : Access) (s : State) (p : Nat) (up : Option (Nat × Word))
    (hw : walk va acc s = .page p up)
    (ht : ∀ e, tlbMatch va acc s = some e → up = none ∧ e.ppage * 4096 + va.toNat % 4096 = p) :
    ∃ tlb, translate va acc s = .ok p { writeBackPte up s with tlb := tlb } := by
  unfold translate
  split
  · rename_i e he
    obtain ⟨hu, hp⟩ := ht e he
    subst hu
    simp only [hp, hw, ↓reduceIte]
    exact ⟨s.tlb, rfl⟩
  · rw [translateByWalk, hw]
    exact ⟨_, congrArg _ (tlbFill_eq va acc p _)⟩

/-! ### Sub-accesses and whole accesses -/

/-- What an access of RAM at `p` answers. -/
def ramAnswer (acc : Access) (p n : Nat) (s : State) : Word := if acc = .write then 0 else Memory.readLE s.mem p n

/-- What an access of RAM at `p` leaves in RAM. -/
def ramAfter (acc : Access) (p n : Nat) (data : Word) (s : State) : Memory :=
  if acc = .write then Memory.writeLE s.mem p n data else s.mem

/-- The router, inside RAM. -/
theorem physAccess_ram (p n : Nat) (acc : Access) (data : Word) (s : State) (h : s.cfg.inRam p n = true) :
    physAccess p n acc data s = (some (ramAnswer acc p n s), { s with mem := ramAfter acc p n data s }) := by
  unfold physAccess
  rw [if_pos h]
  cases acc <;> rfl

/-- A sub-access whose translation reaches RAM. -/
theorem subAccess_ram (va : Word) (p n : Nat) (acc : Access) (data : Word) (s t : State) (h : translate va acc s = .ok p t)
    (hr : t.cfg.inRam p n = true) :
    subAccess va n acc data s = .ok (ramAnswer acc p n t) { t with mem := ramAfter acc p n data t } := by
  simp only [subAccess, h, Res.bind, physOrTrap, physAccess_ram p n acc data t hr]

/-- An access that a walk takes to an address outside RAM, with no TLB entry for it: the walk's write-back, no fill (R231), and the
physical access. -/
theorem subAccess_outside (va : Word) (p n : Nat) (acc : Access) (data : Word) (s : State) (up : Option (Nat × Word))
    (hw : walk va acc s = .page p up) (ht : tlbMatch va acc s = none) (hr : s.cfg.inRam p 1 = false) :
    subAccess va n acc data s = physOrTrap va p n acc data (writeBackPte up s) := by
  simp [subAccess, translate, translateByWalk, ht, hw, Res.bind, tlbFill, hr]

/-- A whole access without translation, inside RAM: at any alignment, across a page boundary too. -/
theorem memOp_bare (va : Word) (n : Nat) (acc : Access) (data : Word) (s : State) (hn : n ≤ 8)
    (hb : s.paging = .bare) (ht : TlbIdentity s.tlb) (hf : va.toNat + n ≤ 2 ^ s.cfg.xlen.bits) (hr : s.cfg.inRam va.toNat n = true) :
    ∃ tlb, memOp va n acc data s =
      .ok (ramAnswer acc va.toNat n s) { s with mem := ramAfter acc va.toNat n data s, tlb := tlb } := by
  unfold memOp
  split
  · rename_i hc
    simp only [crossesPage, decide_eq_true_eq] at hc
    have hk : 4096 - va.toNat % 4096 < n := by omega
    generalize 4096 - va.toNat % 4096 = k at hk
    obtain ⟨t1, h1, hk1⟩ := translate_bare va acc s hb ht
    have s1 := subAccess_ram va va.toNat k acc data s _ h1 (inRam_part hr (by omega) (by omega))
    have hva : (s.cfg.xlen.trunc (va + BitVec.ofNat 64 k)).toNat = va.toNat + k := by
      have := Nat.pow_le_pow_right (show 0 < 2 by decide) s.cfg.xlen.bits_le
      rw [Xlen.trunc_toNat, BitVec.toNat_add, BitVec.toNat_ofNat, Nat.mod_eq_of_lt (by omega : k < 2 ^ 64),
        Nat.mod_eq_of_lt (by omega : va.toNat + k < 2 ^ 64), Nat.mod_eq_of_lt (by omega)]
    simp only [s1, Res.bind]
    obtain ⟨t2, h2, -⟩ := translate_bare (s.cfg.xlen.trunc (va + BitVec.ofNat 64 k)) acc
      { s with tlb := t1, mem := ramAfter acc va.toNat k data { s with tlb := t1 } } hb hk1
    have s2 := subAccess_ram _ _ (n - k) acc (data >>> (8 * k)) _ _ h2
      (by rw [hva]; exact inRam_part hr (by omega) (by omega))
    rw [s2, hva]
    refine ⟨t2, ?_⟩
    obtain ⟨j, rfl⟩ := Nat.exists_eq_add_of_le (Nat.le_of_lt hk)
    rw [Nat.add_sub_cancel_left]
    cases acc <;> simp [ramAnswer, ramAfter, Memory.readLE_add, Memory.writeLE_add]
  · obtain ⟨t1, h1, -⟩ := translate_bare va acc s hb ht
    exact ⟨t1, subAccess_ram va va.toNat n acc data s _ h1 hr⟩

end Machine

end Sys2Proof
end

