-- ==== Sys2Proof/Laws/Csr.lean ====
section
/-! SUPPORT. The CSR bank: keys, the entry a policy comes from, values after an update, and the bits of the post-operation value and
of a merge. -/

namespace Sys2Proof.Machine

/-- Two entries have one key only if they are one entry. -/
theorem csrKey_inj {a b : BitVec 2} {i j : Byte} : csrKey a i = csrKey b j ↔ a = b ∧ i = j := by
  constructor
  · intro h
    have hi := i.isLt
    have hj := j.isLt
    unfold csrKey at h
    exact ⟨BitVec.eq_of_toNat_eq (by omega), BitVec.eq_of_toNat_eq (by omega)⟩
  · rintro ⟨rfl, rfl⟩; rfl

/-- A policy that is not the default one comes from a configured entry. -/
theorem csrPolicy_mem {cfg : Config} {bank : BitVec 2} {id : Byte} {p : CsrPolicy} (h : csrPolicy cfg bank id = p) (hp : p ≠ .ill) :
    ∃ e ∈ cfg.csrConfig, e.bank = bank ∧ e.id = id ∧ e.policy = p := by
  unfold csrPolicy at h
  split at h
  · rename_i e he
    have := List.find?_some he
    simp at this
    exact ⟨e, List.mem_of_find?_eq_some he, this.1, this.2, h⟩
  · exact absurd h.symm hp

/-- The values of the bank after one is written. -/
theorem State.csrAt_setCsr (s : State) (k j : Nat) (v : Word) :
    (s.setCsr k v).csrAt j = if j = k then s.cfg.xlen.trunc v else s.csrAt j := Table.get_set _ _ _ _ _

@[simp] theorem State.csrAt_setCsr_self (s : State) (k : Nat) (v : Word) : (s.setCsr k v).csrAt k = s.cfg.xlen.trunc v := by
  simp [State.csrAt_setCsr]

@[simp] theorem State.csrAt_setPc (s : State) (v : Word) (j : Nat) : (s.setPc v).csrAt j = s.csrAt j := rfl
@[simp] theorem State.csrAt_setPriv (s : State) (p : Priv) (j : Nat) : (s.setPriv p).csrAt j = s.csrAt j := rfl
@[simp] theorem State.csrAt_recomputePaging (s : State) (j : Nat) : s.recomputePaging.csrAt j = s.csrAt j := rfl

/-- With canonical, XLEN-wide CSR values, a value has XLEN bits. -/
theorem State.csrAt_width {s : State} (h : ∀ e ∈ s.csr, s.cfg.xlen.trunc e.2 = e.2) (k : Nat) :
    s.cfg.xlen.trunc (s.csrAt k) = s.csrAt k := by
  unfold State.csrAt
  generalize s.csr = t at h
  induction t with
  | nil => exact Xlen.trunc_zero _
  | cons e t ih =>
    rw [Table.get]
    split
    · exact h e List.mem_cons_self
    · exact ih fun e he => h e (List.mem_cons_of_mem _ he)

/-- Bits of the post-operation value (R650). -/
theorem CsrOp.apply_bit (op : CsrOp) (old v : Word) (i : Nat) (hi : i < 64) : (op.apply old v).getLsbD i =
    match op with
    | .swap => v.getLsbD i
    | .setBits => old.getLsbD i || v.getLsbD i
    | .clearBits => old.getLsbD i && !v.getLsbD i := by
  cases op <;> simp [CsrOp.apply, hi]

/-- Bits of a merge (R664, R666). -/
theorem mergeBits_bit (old new mask : Word) (i : Nat) (hi : i < 64) :
    (mergeBits old new mask).getLsbD i = if mask.getLsbD i then new.getLsbD i else old.getLsbD i := by
  simp only [mergeBits, BitVec.getLsbD_or, BitVec.getLsbD_and, BitVec.getLsbD_not, hi]
  cases mask.getLsbD i <;> simp

/-- A supported satp value is committed whole, with its mirror, and the paging flag follows (R107, R108, R668). -/
theorem satpWrite_some {s : State} {v : Word} {m : PtMode} (h : satpMode s.cfg.xlen v = some m) :
    satpWrite v s = { s.setCsr kSatp v with ptMode := m, root := satpRoot s.cfg.xlen v }.recomputePaging := by
  unfold satpWrite; rw [h]

/-- An unsupported one has no effect (R667). -/
theorem satpWrite_none {s : State} {v : Word} (h : satpMode s.cfg.xlen v = none) : satpWrite v s = s := by
  unfold satpWrite; rw [h]

end Sys2Proof.Machine
end

