-- ==== Sys2Proof/Laws/Dispatch.lean ====
section
/-! SUPPORT. What `exec` is on each instruction, in the shared operations. -/

namespace Sys2Proof.Machine

theorem exec_lui (rd : RegIdx) (imm : BitVec 20) (s : State) :
    exec (.lui rd imm) s =
      writeBack rd (immU s.cfg.xlen imm) 4 s := rfl

theorem exec_auipc (rd : RegIdx) (imm : BitVec 20) (s : State) :
    exec (.auipc rd imm) s =
      writeBack rd (s.pc + immU s.cfg.xlen imm) 4 s := rfl

theorem exec_addi (rd rs1 : RegIdx) (imm : BitVec 12) (s : State) :
    exec (.addi rd rs1 imm) s =
      aluRI Alu.add rd rs1 imm s := rfl

theorem exec_slti (rd rs1 : RegIdx) (imm : BitVec 12) (s : State) :
    exec (.slti rd rs1 imm) s =
      writeBack rd (boolWord (Cond.lt s.cfg.xlen (s.x rs1) (s.cfg.xlen.sext imm))) 4 s := rfl

theorem exec_sltiu (rd rs1 : RegIdx) (imm : BitVec 12) (s : State) :
    exec (.sltiu rd rs1 imm) s =
      writeBack rd (boolWord (Cond.ltu s.cfg.xlen (s.x rs1) (s.cfg.xlen.sext imm))) 4 s := rfl

theorem exec_xori (rd rs1 : RegIdx) (imm : BitVec 12) (s : State) :
    exec (.xori rd rs1 imm) s =
      aluRI Alu.xor rd rs1 imm s := rfl

theorem exec_ori (rd rs1 : RegIdx) (imm : BitVec 12) (s : State) :
    exec (.ori rd rs1 imm) s =
      aluRI Alu.or rd rs1 imm s := rfl

theorem exec_andi (rd rs1 : RegIdx) (imm : BitVec 12) (s : State) :
    exec (.andi rd rs1 imm) s =
      aluRI Alu.and rd rs1 imm s := rfl

theorem exec_slli (rd rs1 : RegIdx) (shamt : BitVec 6) (s : State) :
    exec (.slli rd rs1 shamt) s =
      whenLegal (.slli rd rs1 shamt) s fun s => aluShift Alu.sll rd rs1 shamt s := rfl

theorem exec_srli (rd rs1 : RegIdx) (shamt : BitVec 6) (s : State) :
    exec (.srli rd rs1 shamt) s =
      whenLegal (.srli rd rs1 shamt) s fun s => aluShift Alu.srl rd rs1 shamt s := rfl

theorem exec_srai (rd rs1 : RegIdx) (shamt : BitVec 6) (s : State) :
    exec (.srai rd rs1 shamt) s =
      whenLegal (.srai rd rs1 shamt) s fun s => aluShift Alu.sra rd rs1 shamt s := rfl

theorem exec_add (rd rs1 rs2 : RegIdx) (s : State) :
    exec (.add rd rs1 rs2) s =
      aluRR Alu.add rd rs1 rs2 s := rfl

theorem exec_sub (rd rs1 rs2 : RegIdx) (s : State) :
    exec (.sub rd rs1 rs2) s =
      aluRR Alu.sub rd rs1 rs2 s := rfl

theorem exec_sll (rd rs1 rs2 : RegIdx) (s : State) :
    exec (.sll rd rs1 rs2) s =
      aluRR Alu.sll rd rs1 rs2 s := rfl

theorem exec_slt (rd rs1 rs2 : RegIdx) (s : State) :
    exec (.slt rd rs1 rs2) s =
      writeBack rd (boolWord (Cond.lt s.cfg.xlen (s.x rs1) (s.x rs2))) 4 s := rfl

theorem exec_sltu (rd rs1 rs2 : RegIdx) (s : State) :
    exec (.sltu rd rs1 rs2) s =
      writeBack rd (boolWord (Cond.ltu s.cfg.xlen (s.x rs1) (s.x rs2))) 4 s := rfl

theorem exec_xor (rd rs1 rs2 : RegIdx) (s : State) :
    exec (.xor rd rs1 rs2) s =
      aluRR Alu.xor rd rs1 rs2 s := rfl

theorem exec_srl (rd rs1 rs2 : RegIdx) (s : State) :
    exec (.srl rd rs1 rs2) s =
      aluRR Alu.srl rd rs1 rs2 s := rfl

theorem exec_sra (rd rs1 rs2 : RegIdx) (s : State) :
    exec (.sra rd rs1 rs2) s =
      aluRR Alu.sra rd rs1 rs2 s := rfl

theorem exec_or (rd rs1 rs2 : RegIdx) (s : State) :
    exec (.or rd rs1 rs2) s =
      aluRR Alu.or rd rs1 rs2 s := rfl

theorem exec_and (rd rs1 rs2 : RegIdx) (s : State) :
    exec (.and rd rs1 rs2) s =
      aluRR Alu.and rd rs1 rs2 s := rfl

theorem exec_addiw (rd rs1 : RegIdx) (imm : BitVec 12) (s : State) :
    exec (.addiw rd rs1 imm) s =
      whenLegal (.addiw rd rs1 imm) s fun s => aluW Alu.add rd rs1 (s.cfg.xlen.sext imm) s := rfl

theorem exec_slliw (rd rs1 : RegIdx) (shamt : BitVec 5) (s : State) :
    exec (.slliw rd rs1 shamt) s =
      whenLegal (.slliw rd rs1 shamt) s fun s => aluW Alu.sll rd rs1 (zext shamt) s := rfl

theorem exec_srliw (rd rs1 : RegIdx) (shamt : BitVec 5) (s : State) :
    exec (.srliw rd rs1 shamt) s =
      whenLegal (.srliw rd rs1 shamt) s fun s => aluW Alu.srl rd rs1 (zext shamt) s := rfl

theorem exec_sraiw (rd rs1 : RegIdx) (shamt : BitVec 5) (s : State) :
    exec (.sraiw rd rs1 shamt) s =
      whenLegal (.sraiw rd rs1 shamt) s fun s => aluW Alu.sra rd rs1 (zext shamt) s := rfl

theorem exec_addw (rd rs1 rs2 : RegIdx) (s : State) :
    exec (.addw rd rs1 rs2) s =
      whenLegal (.addw rd rs1 rs2) s fun s => aluW Alu.add rd rs1 (s.x rs2) s := rfl

theorem exec_subw (rd rs1 rs2 : RegIdx) (s : State) :
    exec (.subw rd rs1 rs2) s =
      whenLegal (.subw rd rs1 rs2) s fun s => aluW Alu.sub rd rs1 (s.x rs2) s := rfl

theorem exec_sllw (rd rs1 rs2 : RegIdx) (s : State) :
    exec (.sllw rd rs1 rs2) s =
      whenLegal (.sllw rd rs1 rs2) s fun s => aluW Alu.sll rd rs1 (s.x rs2) s := rfl

theorem exec_srlw (rd rs1 rs2 : RegIdx) (s : State) :
    exec (.srlw rd rs1 rs2) s =
      whenLegal (.srlw rd rs1 rs2) s fun s => aluW Alu.srl rd rs1 (s.x rs2) s := rfl

theorem exec_sraw (rd rs1 rs2 : RegIdx) (s : State) :
    exec (.sraw rd rs1 rs2) s =
      whenLegal (.sraw rd rs1 rs2) s fun s => aluW Alu.sra rd rs1 (s.x rs2) s := rfl

theorem exec_jal (rd : RegIdx) (offset : BitVec 20) (s : State) :
    exec (.jal rd offset) s =
      jumpLink rd (s.pc + offsetOf s.cfg.xlen offset) 4 s := rfl

theorem exec_jalr (rd rs1 : RegIdx) (imm : BitVec 12) (s : State) :
    exec (.jalr rd rs1 imm) s =
      jumpLink rd (registerTarget rs1 (s.cfg.xlen.sext imm) s) 4 s := rfl

theorem exec_beq (rs1 rs2 : RegIdx) (offset : BitVec 12) (s : State) :
    exec (.beq rs1 rs2 offset) s =
      branchIf (Cond.eq s.cfg.xlen (s.x rs1) (s.x rs2)) (offsetOf s.cfg.xlen offset) 4 s := rfl

theorem exec_bne (rs1 rs2 : RegIdx) (offset : BitVec 12) (s : State) :
    exec (.bne rs1 rs2 offset) s =
      branchIf (!Cond.eq s.cfg.xlen (s.x rs1) (s.x rs2)) (offsetOf s.cfg.xlen offset) 4 s := rfl

theorem exec_blt (rs1 rs2 : RegIdx) (offset : BitVec 12) (s : State) :
    exec (.blt rs1 rs2 offset) s =
      branchIf (Cond.lt s.cfg.xlen (s.x rs1) (s.x rs2)) (offsetOf s.cfg.xlen offset) 4 s := rfl

theorem exec_bge (rs1 rs2 : RegIdx) (offset : BitVec 12) (s : State) :
    exec (.bge rs1 rs2 offset) s =
      branchIf (!Cond.lt s.cfg.xlen (s.x rs1) (s.x rs2)) (offsetOf s.cfg.xlen offset) 4 s := rfl

theorem exec_bltu (rs1 rs2 : RegIdx) (offset : BitVec 12) (s : State) :
    exec (.bltu rs1 rs2 offset) s =
      branchIf (Cond.ltu s.cfg.xlen (s.x rs1) (s.x rs2)) (offsetOf s.cfg.xlen offset) 4 s := rfl

theorem exec_bgeu (rs1 rs2 : RegIdx) (offset : BitVec 12) (s : State) :
    exec (.bgeu rs1 rs2 offset) s =
      branchIf (!Cond.ltu s.cfg.xlen (s.x rs1) (s.x rs2)) (offsetOf s.cfg.xlen offset) 4 s := rfl

theorem exec_lb (rd rs1 : RegIdx) (imm : BitVec 12) (s : State) :
    exec (.lb rd rs1 imm) s =
      doLoad .b rd rs1 (s.cfg.xlen.sext imm) 4 s := rfl

theorem exec_lh (rd rs1 : RegIdx) (imm : BitVec 12) (s : State) :
    exec (.lh rd rs1 imm) s =
      doLoad .h rd rs1 (s.cfg.xlen.sext imm) 4 s := rfl

theorem exec_lw (rd rs1 : RegIdx) (imm : BitVec 12) (s : State) :
    exec (.lw rd rs1 imm) s =
      doLoad .w rd rs1 (s.cfg.xlen.sext imm) 4 s := rfl

theorem exec_ld (rd rs1 : RegIdx) (imm : BitVec 12) (s : State) :
    exec (.ld rd rs1 imm) s =
      whenLegal (.ld rd rs1 imm) s fun s => doLoad .d rd rs1 (s.cfg.xlen.sext imm) 4 s := rfl

theorem exec_lbu (rd rs1 : RegIdx) (imm : BitVec 12) (s : State) :
    exec (.lbu rd rs1 imm) s =
      doLoad .bu rd rs1 (s.cfg.xlen.sext imm) 4 s := rfl

theorem exec_lhu (rd rs1 : RegIdx) (imm : BitVec 12) (s : State) :
    exec (.lhu rd rs1 imm) s =
      doLoad .hu rd rs1 (s.cfg.xlen.sext imm) 4 s := rfl

theorem exec_lwu (rd rs1 : RegIdx) (imm : BitVec 12) (s : State) :
    exec (.lwu rd rs1 imm) s =
      whenLegal (.lwu rd rs1 imm) s fun s => doLoad .wu rd rs1 (s.cfg.xlen.sext imm) 4 s := rfl

theorem exec_sb (rs1 rs2 : RegIdx) (imm : BitVec 12) (s : State) :
    exec (.sb rs1 rs2 imm) s =
      doStore 1 rs1 rs2 (s.cfg.xlen.sext imm) 4 s := rfl

theorem exec_sh (rs1 rs2 : RegIdx) (imm : BitVec 12) (s : State) :
    exec (.sh rs1 rs2 imm) s =
      doStore 2 rs1 rs2 (s.cfg.xlen.sext imm) 4 s := rfl

theorem exec_sw (rs1 rs2 : RegIdx) (imm : BitVec 12) (s : State) :
    exec (.sw rs1 rs2 imm) s =
      doStore 4 rs1 rs2 (s.cfg.xlen.sext imm) 4 s := rfl

theorem exec_sd (rs1 rs2 : RegIdx) (imm : BitVec 12) (s : State) :
    exec (.sd rs1 rs2 imm) s =
      whenLegal (.sd rs1 rs2 imm) s fun s => doStore 8 rs1 rs2 (s.cfg.xlen.sext imm) 4 s := rfl

theorem exec_fence (fm pred succ : BitVec 4) (rs1 rd : RegIdx) (s : State) :
    exec (.fence fm pred succ rs1 rd) s =
      noEffect 4 s := rfl

theorem exec_fenceI (imm : BitVec 12) (rs1 rd : RegIdx) (s : State) :
    exec (.fenceI imm rs1 rd) s =
      noEffect 4 s := rfl

theorem exec_mul (rd rs1 rs2 : RegIdx) (s : State) :
    exec (.mul rd rs1 rs2) s =
      aluRR Alu.mul rd rs1 rs2 s := rfl

theorem exec_mulh (rd rs1 rs2 : RegIdx) (s : State) :
    exec (.mulh rd rs1 rs2) s =
      aluRR Alu.mulh rd rs1 rs2 s := rfl

theorem exec_mulhsu (rd rs1 rs2 : RegIdx) (s : State) :
    exec (.mulhsu rd rs1 rs2) s =
      aluRR Alu.mulhsu rd rs1 rs2 s := rfl

theorem exec_mulhu (rd rs1 rs2 : RegIdx) (s : State) :
    exec (.mulhu rd rs1 rs2) s =
      aluRR Alu.mulhu rd rs1 rs2 s := rfl

theorem exec_div (rd rs1 rs2 : RegIdx) (s : State) :
    exec (.div rd rs1 rs2) s =
      aluRR Alu.div rd rs1 rs2 s := rfl

theorem exec_divu (rd rs1 rs2 : RegIdx) (s : State) :
    exec (.divu rd rs1 rs2) s =
      aluRR Alu.divu rd rs1 rs2 s := rfl

theorem exec_rem (rd rs1 rs2 : RegIdx) (s : State) :
    exec (.rem rd rs1 rs2) s =
      aluRR Alu.rem rd rs1 rs2 s := rfl

theorem exec_remu (rd rs1 rs2 : RegIdx) (s : State) :
    exec (.remu rd rs1 rs2) s =
      aluRR Alu.remu rd rs1 rs2 s := rfl

theorem exec_mulw (rd rs1 rs2 : RegIdx) (s : State) :
    exec (.mulw rd rs1 rs2) s =
      whenLegal (.mulw rd rs1 rs2) s fun s => aluW Alu.mul rd rs1 (s.x rs2) s := rfl

theorem exec_divw (rd rs1 rs2 : RegIdx) (s : State) :
    exec (.divw rd rs1 rs2) s =
      whenLegal (.divw rd rs1 rs2) s fun s => aluW Alu.div rd rs1 (s.x rs2) s := rfl

theorem exec_divuw (rd rs1 rs2 : RegIdx) (s : State) :
    exec (.divuw rd rs1 rs2) s =
      whenLegal (.divuw rd rs1 rs2) s fun s => aluW Alu.divu rd rs1 (s.x rs2) s := rfl

theorem exec_remw (rd rs1 rs2 : RegIdx) (s : State) :
    exec (.remw rd rs1 rs2) s =
      whenLegal (.remw rd rs1 rs2) s fun s => aluW Alu.rem rd rs1 (s.x rs2) s := rfl

theorem exec_remuw (rd rs1 rs2 : RegIdx) (s : State) :
    exec (.remuw rd rs1 rs2) s =
      whenLegal (.remuw rd rs1 rs2) s fun s => aluW Alu.remu rd rs1 (s.x rs2) s := rfl

theorem exec_lrW (rd rs1 : RegIdx) (aq rl : Bool) (s : State) :
    exec (.lrW rd rs1 aq rl) s =
      doLr 4 rd rs1 s := rfl

theorem exec_scW (rd rs1 rs2 : RegIdx) (aq rl : Bool) (s : State) :
    exec (.scW rd rs1 rs2 aq rl) s =
      doSc 4 rd rs1 rs2 s := rfl

theorem exec_lrD (rd rs1 : RegIdx) (aq rl : Bool) (s : State) :
    exec (.lrD rd rs1 aq rl) s =
      whenLegal (.lrD rd rs1 aq rl) s fun s => doLr 8 rd rs1 s := rfl

theorem exec_scD (rd rs1 rs2 : RegIdx) (aq rl : Bool) (s : State) :
    exec (.scD rd rs1 rs2 aq rl) s =
      whenLegal (.scD rd rs1 rs2 aq rl) s fun s => doSc 8 rd rs1 rs2 s := rfl

theorem exec_amoswapW (rd rs1 rs2 : RegIdx) (aq rl : Bool) (s : State) :
    exec (.amoswapW rd rs1 rs2 aq rl) s =
      doAmo 4 Alu.second rd rs1 rs2 s := rfl

theorem exec_amoaddW (rd rs1 rs2 : RegIdx) (aq rl : Bool) (s : State) :
    exec (.amoaddW rd rs1 rs2 aq rl) s =
      doAmo 4 Alu.add rd rs1 rs2 s := rfl

theorem exec_amoxorW (rd rs1 rs2 : RegIdx) (aq rl : Bool) (s : State) :
    exec (.amoxorW rd rs1 rs2 aq rl) s =
      doAmo 4 Alu.xor rd rs1 rs2 s := rfl

theorem exec_amoandW (rd rs1 rs2 : RegIdx) (aq rl : Bool) (s : State) :
    exec (.amoandW rd rs1 rs2 aq rl) s =
      doAmo 4 Alu.and rd rs1 rs2 s := rfl

theorem exec_amoorW (rd rs1 rs2 : RegIdx) (aq rl : Bool) (s : State) :
    exec (.amoorW rd rs1 rs2 aq rl) s =
      doAmo 4 Alu.or rd rs1 rs2 s := rfl

theorem exec_amominW (rd rs1 rs2 : RegIdx) (aq rl : Bool) (s : State) :
    exec (.amominW rd rs1 rs2 aq rl) s =
      doAmo 4 Alu.min rd rs1 rs2 s := rfl

theorem exec_amomaxW (rd rs1 rs2 : RegIdx) (aq rl : Bool) (s : State) :
    exec (.amomaxW rd rs1 rs2 aq rl) s =
      doAmo 4 Alu.max rd rs1 rs2 s := rfl

theorem exec_amominuW (rd rs1 rs2 : RegIdx) (aq rl : Bool) (s : State) :
    exec (.amominuW rd rs1 rs2 aq rl) s =
      doAmo 4 Alu.minu rd rs1 rs2 s := rfl

theorem exec_amomaxuW (rd rs1 rs2 : RegIdx) (aq rl : Bool) (s : State) :
    exec (.amomaxuW rd rs1 rs2 aq rl) s =
      doAmo 4 Alu.maxu rd rs1 rs2 s := rfl

theorem exec_amoswapD (rd rs1 rs2 : RegIdx) (aq rl : Bool) (s : State) :
    exec (.amoswapD rd rs1 rs2 aq rl) s =
      whenLegal (.amoswapD rd rs1 rs2 aq rl) s fun s => doAmo 8 Alu.second rd rs1 rs2 s := rfl

theorem exec_amoaddD (rd rs1 rs2 : RegIdx) (aq rl : Bool) (s : State) :
    exec (.amoaddD rd rs1 rs2 aq rl) s =
      whenLegal (.amoaddD rd rs1 rs2 aq rl) s fun s => doAmo 8 Alu.add rd rs1 rs2 s := rfl

theorem exec_amoxorD (rd rs1 rs2 : RegIdx) (aq rl : Bool) (s : State) :
    exec (.amoxorD rd rs1 rs2 aq rl) s =
      whenLegal (.amoxorD rd rs1 rs2 aq rl) s fun s => doAmo 8 Alu.xor rd rs1 rs2 s := rfl

theorem exec_amoandD (rd rs1 rs2 : RegIdx) (aq rl : Bool) (s : State) :
    exec (.amoandD rd rs1 rs2 aq rl) s =
      whenLegal (.amoandD rd rs1 rs2 aq rl) s fun s => doAmo 8 Alu.and rd rs1 rs2 s := rfl

theorem exec_amoorD (rd rs1 rs2 : RegIdx) (aq rl : Bool) (s : State) :
    exec (.amoorD rd rs1 rs2 aq rl) s =
      whenLegal (.amoorD rd rs1 rs2 aq rl) s fun s => doAmo 8 Alu.or rd rs1 rs2 s := rfl

theorem exec_amominD (rd rs1 rs2 : RegIdx) (aq rl : Bool) (s : State) :
    exec (.amominD rd rs1 rs2 aq rl) s =
      whenLegal (.amominD rd rs1 rs2 aq rl) s fun s => doAmo 8 Alu.min rd rs1 rs2 s := rfl

theorem exec_amomaxD (rd rs1 rs2 : RegIdx) (aq rl : Bool) (s : State) :
    exec (.amomaxD rd rs1 rs2 aq rl) s =
      whenLegal (.amomaxD rd rs1 rs2 aq rl) s fun s => doAmo 8 Alu.max rd rs1 rs2 s := rfl

theorem exec_amominuD (rd rs1 rs2 : RegIdx) (aq rl : Bool) (s : State) :
    exec (.amominuD rd rs1 rs2 aq rl) s =
      whenLegal (.amominuD rd rs1 rs2 aq rl) s fun s => doAmo 8 Alu.minu rd rs1 rs2 s := rfl

theorem exec_amomaxuD (rd rs1 rs2 : RegIdx) (aq rl : Bool) (s : State) :
    exec (.amomaxuD rd rs1 rs2 aq rl) s =
      whenLegal (.amomaxuD rd rs1 rs2 aq rl) s fun s => doAmo 8 Alu.maxu rd rs1 rs2 s := rfl

theorem exec_csrrw (rd rs1 : RegIdx) (csr : BitVec 12) (s : State) :
    exec (.csrrw rd rs1 csr) s =
      doCsr (.csrrw rd rs1 csr) rd csr .swap (s.x rs1) s := rfl

theorem exec_csrrs (rd rs1 : RegIdx) (csr : BitVec 12) (s : State) :
    exec (.csrrs rd rs1 csr) s =
      doCsr (.csrrs rd rs1 csr) rd csr .setBits (s.x rs1) s := rfl

theorem exec_csrrc (rd rs1 : RegIdx) (csr : BitVec 12) (s : State) :
    exec (.csrrc rd rs1 csr) s =
      doCsr (.csrrc rd rs1 csr) rd csr .clearBits (s.x rs1) s := rfl

theorem exec_csrrwi (rd : RegIdx) (uimm : BitVec 5) (csr : BitVec 12) (s : State) :
    exec (.csrrwi rd uimm csr) s =
      doCsr (.csrrwi rd uimm csr) rd csr .swap (zext uimm) s := rfl

theorem exec_csrrsi (rd : RegIdx) (uimm : BitVec 5) (csr : BitVec 12) (s : State) :
    exec (.csrrsi rd uimm csr) s =
      doCsr (.csrrsi rd uimm csr) rd csr .setBits (zext uimm) s := rfl

theorem exec_csrrci (rd : RegIdx) (uimm : BitVec 5) (csr : BitVec 12) (s : State) :
    exec (.csrrci rd uimm csr) s =
      doCsr (.csrrci rd uimm csr) rd csr .clearBits (zext uimm) s := rfl

theorem exec_ecall (s : State) :
    exec .ecall s =
      fail (.ecall s.priv) 0 s := rfl

theorem exec_ebreak (s : State) :
    exec .ebreak s =
      fail .breakpoint s.pc s := rfl

theorem exec_mret (s : State) :
    exec .mret s =
      if s.priv = .machine then .next (requestXret .m s) else illegal .mret s := rfl

theorem exec_sret (s : State) :
    exec .sret s =
      if s.priv = .user then illegal .sret s else .next (requestXret .s s) := rfl

theorem exec_wfi (s : State) :
    exec .wfi s =
      if s.priv = .user then illegal .wfi s else noEffect 4 s := rfl

theorem exec_sfenceVma (rs1 rs2 : RegIdx) (s : State) :
    exec (.sfenceVma rs1 rs2) s =
      if s.priv = .user then illegal (.sfenceVma rs1 rs2) s else noEffect 4 (tlbFlush s) := rfl

theorem exec_cAddi4spn (rd : CRegIdx) (nzuimm : BitVec 8) (s : State) :
    exec (.cAddi4spn rd nzuimm) s =
      whenLegal (.cAddi4spn rd nzuimm) s fun s => writeBack (creg rd) (s.cfg.xlen.lift Alu.add (s.x sp) (uimm4 nzuimm)) 2 s := rfl

theorem exec_cLw (rd rs1 : CRegIdx) (uimm : BitVec 5) (s : State) :
    exec (.cLw rd rs1 uimm) s =
      doLoad .w (creg rd) (creg rs1) (uimm4 uimm) 2 s := rfl

theorem exec_cLd (rd rs1 : CRegIdx) (uimm : BitVec 5) (s : State) :
    exec (.cLd rd rs1 uimm) s =
      whenLegal (.cLd rd rs1 uimm) s fun s => doLoad .d (creg rd) (creg rs1) (uimm8 uimm) 2 s := rfl

theorem exec_cSw (rs1 rs2 : CRegIdx) (uimm : BitVec 5) (s : State) :
    exec (.cSw rs1 rs2 uimm) s =
      doStore 4 (creg rs1) (creg rs2) (uimm4 uimm) 2 s := rfl

theorem exec_cSd (rs1 rs2 : CRegIdx) (uimm : BitVec 5) (s : State) :
    exec (.cSd rs1 rs2 uimm) s =
      whenLegal (.cSd rs1 rs2 uimm) s fun s => doStore 8 (creg rs1) (creg rs2) (uimm8 uimm) 2 s := rfl

theorem exec_cNop (imm : BitVec 6) (s : State) :
    exec (.cNop imm) s =
      noEffect 2 s := rfl

theorem exec_cAddi (rd : RegIdx) (imm : BitVec 6) (s : State) :
    exec (.cAddi rd imm) s =
      whenLegal (.cAddi rd imm) s fun s => writeBack rd (s.cfg.xlen.lift Alu.add (s.x rd) (s.cfg.xlen.sext imm)) 2 s := rfl

theorem exec_cJal (offset : BitVec 11) (s : State) :
    exec (.cJal offset) s =
      whenLegal (.cJal offset) s fun s => jumpLink ra (s.pc + offsetOf s.cfg.xlen offset) 2 s := rfl

theorem exec_cAddiw (rd : RegIdx) (imm : BitVec 6) (s : State) :
    exec (.cAddiw rd imm) s =
      whenLegal (.cAddiw rd imm) s fun s => writeBack rd (wForm Alu.add (s.x rd) (s.cfg.xlen.sext imm)) 2 s := rfl

theorem exec_cLi (rd : RegIdx) (imm : BitVec 6) (s : State) :
    exec (.cLi rd imm) s =
      writeBack rd (s.cfg.xlen.sext imm) 2 s := rfl

theorem exec_cAddi16sp (nzimm : BitVec 6) (s : State) :
    exec (.cAddi16sp nzimm) s =
      whenLegal (.cAddi16sp nzimm) s fun s => writeBack sp (s.cfg.xlen.lift Alu.add (s.x sp) (imm16sp s.cfg.xlen nzimm)) 2 s := rfl

theorem exec_cLui (rd : RegIdx) (nzimm : BitVec 6) (s : State) :
    exec (.cLui rd nzimm) s =
      whenLegal (.cLui rd nzimm) s fun s => writeBack rd (immCLui s.cfg.xlen nzimm) 2 s := rfl

theorem exec_cSrli (rd : CRegIdx) (shamt : BitVec 6) (s : State) :
    exec (.cSrli rd shamt) s =
      whenLegal (.cSrli rd shamt) s fun s => writeBack (creg rd) (s.cfg.xlen.lift Alu.srl (s.x (creg rd)) (zext shamt)) 2 s := rfl

theorem exec_cSrai (rd : CRegIdx) (shamt : BitVec 6) (s : State) :
    exec (.cSrai rd shamt) s =
      whenLegal (.cSrai rd shamt) s fun s => writeBack (creg rd) (s.cfg.xlen.lift Alu.sra (s.x (creg rd)) (zext shamt)) 2 s := rfl

theorem exec_cAndi (rd : CRegIdx) (imm : BitVec 6) (s : State) :
    exec (.cAndi rd imm) s =
      writeBack (creg rd) (s.cfg.xlen.lift Alu.and (s.x (creg rd)) (s.cfg.xlen.sext imm)) 2 s := rfl

theorem exec_cSub (rd rs2 : CRegIdx) (s : State) :
    exec (.cSub rd rs2) s =
      writeBack (creg rd) (s.cfg.xlen.lift Alu.sub (s.x (creg rd)) (s.x (creg rs2))) 2 s := rfl

theorem exec_cXor (rd rs2 : CRegIdx) (s : State) :
    exec (.cXor rd rs2) s =
      writeBack (creg rd) (s.cfg.xlen.lift Alu.xor (s.x (creg rd)) (s.x (creg rs2))) 2 s := rfl

theorem exec_cOr (rd rs2 : CRegIdx) (s : State) :
    exec (.cOr rd rs2) s =
      writeBack (creg rd) (s.cfg.xlen.lift Alu.or (s.x (creg rd)) (s.x (creg rs2))) 2 s := rfl

theorem exec_cAnd (rd rs2 : CRegIdx) (s : State) :
    exec (.cAnd rd rs2) s =
      writeBack (creg rd) (s.cfg.xlen.lift Alu.and (s.x (creg rd)) (s.x (creg rs2))) 2 s := rfl

theorem exec_cSubw (rd rs2 : CRegIdx) (s : State) :
    exec (.cSubw rd rs2) s =
      whenLegal (.cSubw rd rs2) s fun s => writeBack (creg rd) (wForm Alu.sub (s.x (creg rd)) (s.x (creg rs2))) 2 s := rfl

theorem exec_cAddw (rd rs2 : CRegIdx) (s : State) :
    exec (.cAddw rd rs2) s =
      whenLegal (.cAddw rd rs2) s fun s => writeBack (creg rd) (wForm Alu.add (s.x (creg rd)) (s.x (creg rs2))) 2 s := rfl

theorem exec_cJ (offset : BitVec 11) (s : State) :
    exec (.cJ offset) s =
      .next (s.setPc (s.pc + offsetOf s.cfg.xlen offset)) := rfl

theorem exec_cBeqz (rs1 : CRegIdx) (offset : BitVec 8) (s : State) :
    exec (.cBeqz rs1 offset) s =
      branchIf (Cond.eq s.cfg.xlen (s.x (creg rs1)) 0) (offsetOf s.cfg.xlen offset) 2 s := rfl

theorem exec_cBnez (rs1 : CRegIdx) (offset : BitVec 8) (s : State) :
    exec (.cBnez rs1 offset) s =
      branchIf (!Cond.eq s.cfg.xlen (s.x (creg rs1)) 0) (offsetOf s.cfg.xlen offset) 2 s := rfl

theorem exec_cSlli (rd : RegIdx) (shamt : BitVec 6) (s : State) :
    exec (.cSlli rd shamt) s =
      whenLegal (.cSlli rd shamt) s fun s => writeBack rd (s.cfg.xlen.lift Alu.sll (s.x rd) (zext shamt)) 2 s := rfl

theorem exec_cLwsp (rd : RegIdx) (uimm : BitVec 6) (s : State) :
    exec (.cLwsp rd uimm) s =
      whenLegal (.cLwsp rd uimm) s fun s => doLoad .w rd sp (uimm4 uimm) 2 s := rfl

theorem exec_cLdsp (rd : RegIdx) (uimm : BitVec 6) (s : State) :
    exec (.cLdsp rd uimm) s =
      whenLegal (.cLdsp rd uimm) s fun s => doLoad .d rd sp (uimm8 uimm) 2 s := rfl

theorem exec_cJr (rs1 : RegIdx) (s : State) :
    exec (.cJr rs1) s =
      whenLegal (.cJr rs1) s fun s => .next (s.setPc (registerTarget rs1 0 s)) := rfl

theorem exec_cMv (rd rs2 : RegIdx) (s : State) :
    exec (.cMv rd rs2) s =
      whenLegal (.cMv rd rs2) s fun s => writeBack rd (s.x rs2) 2 s := rfl

theorem exec_cEbreak (s : State) :
    exec .cEbreak s =
      fail .breakpoint s.pc s := rfl

theorem exec_cJalr (rs1 : RegIdx) (s : State) :
    exec (.cJalr rs1) s =
      whenLegal (.cJalr rs1) s fun s => jumpLink ra (registerTarget rs1 0 s) 2 s := rfl

theorem exec_cAdd (rd rs2 : RegIdx) (s : State) :
    exec (.cAdd rd rs2) s =
      whenLegal (.cAdd rd rs2) s fun s => writeBack rd (s.cfg.xlen.lift Alu.add (s.x rd) (s.x rs2)) 2 s := rfl

theorem exec_cSwsp (rs2 : RegIdx) (uimm : BitVec 6) (s : State) :
    exec (.cSwsp rs2 uimm) s =
      doStore 4 sp rs2 (uimm4 uimm) 2 s := rfl

theorem exec_cSdsp (rs2 : RegIdx) (uimm : BitVec 6) (s : State) :
    exec (.cSdsp rs2 uimm) s =
      whenLegal (.cSdsp rs2 uimm) s fun s => doStore 8 sp rs2 (uimm8 uimm) 2 s := rfl

end Sys2Proof.Machine
end

