-- ==== Sys2Proof/Laws/Effects.lean ====
section
/-! SUPPORT. What a step can do, said once: a relation between states that holds over each primitive update of the machine holds
over every access, every instruction and every step. Invariants and frames are cases of it. -/

namespace Sys2Proof.Machine

/-! ### Accesses -/

/-- A relation that the updates of a memory access keep; `st` says whether the access may write. -/
structure AccessKept (st : Bool) (P : State → State → Prop) : Prop where
  refl : ∀ s, P s s
  trans : ∀ {s t u}, P s t → P t u → P s u
  tick : ∀ s : State, P s s.tick
  fill : ∀ s va acc p, (s.paging = .bare → p = va.toNat) → P s (tlbFill va acc p s)
  pte : ∀ s p v, s.paging = .virtual → s.cfg.adUpdate = true → s.cfg.inRam p s.ptMode.desc.pteSize = true →
    P s { s with mem := Memory.writeLE s.mem p s.ptMode.desc.pteSize v }
  plic : ∀ s off n acc data, P s (plicAccess off n acc data s).2
  device : ∀ s q, P s (deviceAccess q s).2
  store : st = true → ∀ s p n v, s.cfg.inRam p n = true → P s { s with mem := Memory.writeLE s.mem p n v }

/-- The state an operation leaves, whether it raised or not, is related to the first. -/
def Res.Kept {α : Type} (P : State → State → Prop) (s : State) (r : Res α) : Prop :=
  match r with
  | .ok _ t => P s t
  | .trap _ _ t => P s t

/-- What a walk writes back lies in RAM, and only while translating with `AD_UPDATE` on. -/
theorem walkFrom_update (d : PtDesc) (va : Word) (acc : Access) (s : State) (ls : List LevelDesc) (a p q : Nat) (v : Word)
    (h : walkFrom d va acc s ls a = .page p (some (q, v))) : s.cfg.adUpdate = true ∧ s.cfg.inRam q d.pteSize = true := by
  induction ls generalizing a with
  | nil => simp [walkFrom] at h
  | cons l ls ih =>
    simp only [walkFrom] at h
    split at h
    · simp at h
    · rename_i hr
      split at h
      · simp at h
      · split at h
        · split at h
          · simp at h
          · exact ih _ h
        · unfold walkLeaf at h
          split at h
          · simp at h
          · split at h
            · simp at h
            · simp only [Walked.page.injEq, Option.map_eq_some_iff, Prod.mk.injEq] at h
              obtain ⟨_, u, hu, rfl, _⟩ := h
              unfold pteUpdated at hu
              split at hu
              · rename_i hc
                simp at hc hr
                exact ⟨hc.1, hr⟩
              · simp at hu

theorem walk_update (va : Word) (acc : Access) (s : State) (p q : Nat) (v : Word)
    (h : walk va acc s = .page p (some (q, v))) :
    s.paging = .virtual ∧ s.cfg.adUpdate = true ∧ s.cfg.inRam q s.ptMode.desc.pteSize = true := by
  unfold walk at h
  split at h
  · simp at h
  · rename_i hp
    split at h
    · exact ⟨hp, walkFrom_update _ _ _ _ _ _ _ _ _ h⟩
    · simp at h

theorem walk_bare {s : State} (h : s.paging = .bare) (va : Word) (acc : Access) : walk va acc s = .page va.toNat none := by
  simp [walk, h]

section
variable {st : Bool} {P : State → State → Prop}

theorem AccessKept.bind (K : AccessKept st P) {α β : Type} {s : State} {r : Res α} {k : α → State → Res β}
    (hr : r.Kept P s) (hk : ∀ a t, (k a t).Kept P t) : (r.bind k).Kept P s := by
  cases r with
  | trap c v t => exact hr
  | ok a t =>
    have := hk a t
    simp only [Res.bind]
    cases h : k a t <;> rw [h] at this <;> exact K.trans hr this

theorem AccessKept.physAccess (K : AccessKept st P) {acc : Access} (hw : acc = .write → st = true) (p n : Nat) (data : Word)
    (s : State) : P s (physAccess p n acc data s).2 := by
  unfold Machine.physAccess
  split
  · rename_i h
    cases acc
    · exact K.refl s
    · exact K.store (hw rfl) s p n data h
    · exact K.refl s
  · split
    · exact K.plic s _ _ _ _
    · split
      · exact K.device s _
      · exact K.refl s

theorem AccessKept.translateByWalk (K : AccessKept st P) (va : Word) (acc : Access) (s : State) :
    (translateByWalk va acc s).Kept P s := by
  unfold Machine.translateByWalk
  split
  · rename_i p up h
    have hf : s.paging = .bare → p = va.toNat := fun hb => by rw [walk_bare hb] at h; simp at h; exact h.1.symm
    cases up with
    | none => exact K.fill s va acc p hf
    | some u =>
      obtain ⟨q, v⟩ := u
      obtain ⟨h1, h2, h3⟩ := walk_update va acc s p q v h
      exact K.trans (K.pte s q v h1 h2 h3) (K.fill _ va acc p hf)
  · exact K.refl s

theorem AccessKept.translate (K : AccessKept st P) (va : Word) (acc : Access) (s : State) : (translate va acc s).Kept P s := by
  unfold Machine.translate
  split
  · dsimp only
    split
    · exact K.refl s
    · split
      · exact K.tick s
      · have := K.translateByWalk va acc s.tick
        cases h : Machine.translateByWalk va acc s.tick <;> rw [h] at this <;> exact K.trans (K.tick s) this
  · exact K.translateByWalk va acc s

theorem AccessKept.subAccess (K : AccessKept st P) {acc : Access} (hw : acc = .write → st = true) (va : Word) (n : Nat)
    (data : Word) (s : State) : (subAccess va n acc data s).Kept P s := by
  refine K.bind (K.translate va acc s) fun p t => ?_
  have := K.physAccess hw p n data t
  unfold physOrTrap
  split <;> rename_i h <;> rw [h] at this <;> exact this

theorem AccessKept.memOp (K : AccessKept st P) {acc : Access} (hw : acc = .write → st = true) (va : Word) (n : Nat)
    (data : Word) (s : State) : (memOp va n acc data s).Kept P s := by
  unfold Machine.memOp
  split
  · exact K.bind (K.subAccess hw _ _ _ _) fun _ _ => K.bind (K.subAccess hw _ _ _ _) fun _ t => K.refl t
  · exact K.subAccess hw _ _ _ _

theorem AccessKept.memRead (K : AccessKept st P) (va : Word) (n : Nat) (s : State) : (memRead va n s).Kept P s :=
  K.memOp (by simp) va n 0 s

theorem AccessKept.memWrite (K : AccessKept st P) (hw : st = true) (va : Word) (n : Nat) (v : Word) (s : State) :
    (memWrite va n v s).Kept P s :=
  K.bind (K.memOp (fun _ => hw) va n v s) fun _ t => K.refl t

theorem AccessKept.amoPhys (K : AccessKept st P) {acc : Access} (hw : acc = .write → st = true) (a : Word) (p n : Nat)
    (data : Word) (s : State) : (amoPhys a p n acc data s).Kept P s := by
  have := K.physAccess hw p n data s
  unfold Machine.amoPhys
  split <;> rename_i h <;> rw [h] at this <;> exact this

theorem AccessKept.amoAccess (K : AccessKept st P) (hw : st = true) (n : Nat) (f : BinOp) (a b : Word) (s : State) :
    (amoAccess n f a b s).Kept P s :=
  K.bind (K.translate a .write s) fun _ _ => K.bind (K.amoPhys (by simp) _ _ _ _ _) fun _ _ =>
    K.bind (K.amoPhys (fun _ => hw) _ _ _ _ _) fun _ t => K.refl t

/-- A fetch changes what its accesses change. -/
theorem AccessKept.fetch (K : AccessKept st P) (s : State) : (fetch s).Kept P s := by
  have r : ∀ va n (s : State), (fetchBytes va n s).Kept P s := fun va n s => K.memOp (by simp) va n 0 s
  unfold Machine.fetch
  split
  · exact K.refl s
  · split
    · refine K.bind (r _ _ _) fun lo t => ?_
      split
      · exact K.refl t
      · exact K.bind (r _ _ _) fun _ u => K.refl u
    · exact K.bind (r _ _ _) fun _ u => K.refl u

end

/-! ### Even targets -/

theorem bit0_eq (v : Word) : v.getLsbD 0 = decide (v.toNat % 2 = 1) := by
  rw [BitVec.getLsbD, Nat.testBit_zero]

theorem even_add {a b : Word} (ha : a.getLsbD 0 = false) (hb : b.getLsbD 0 = false) : (a + b).getLsbD 0 = false := by
  simp only [bit0_eq, decide_eq_false_iff_not, BitVec.toNat_add] at *
  omega

theorem even_trunc {x : Xlen} {v : Word} (h : v.getLsbD 0 = false) : (x.trunc v).getLsbD 0 = false := by
  rw [Xlen.trunc_getLsbD, h, Bool.and_false]

theorem offsetOf_even (x : Xlen) {n : Nat} (o : BitVec n) : (offsetOf x o).getLsbD 0 = false := by
  rw [offsetOf, Xlen.sext, even_trunc]
  rw [BitVec.getLsbD_signExtend, BitVec.getLsbD_append]
  simp

theorem pcOffset_even {s : State} (h : s.pc.getLsbD 0 = false) {n : Nat} (o : BitVec n) :
    (s.pc + offsetOf s.cfg.xlen o).getLsbD 0 = false := even_add h (offsetOf_even _ o)

theorem registerTarget_even (r : RegIdx) (v : Word) (s : State) : (registerTarget r v s).getLsbD 0 = false := by
  simp [registerTarget]

theorem pcPlus_even {s : State} (h : s.pc.getLsbD 0 = false) {n : Nat} (hn : n % 2 = 0) : (s.pcPlus n).getLsbD 0 = false := by
  refine even_trunc (even_add h ?_)
  rw [bit0_eq]; simp; omega

/-! ### The PLIC -/

/-- A relation that the updates of the PLIC keep. -/
structure PlicKept (F : State → State → Prop) : Prop where
  refl : ∀ s, F s s
  trans : ∀ {s t u}, F s t → F t u → F s u
  tick : ∀ s : State, F s s.tick
  select : ∀ s c keep, F s (plicSelect c keep s)
  line : ∀ s c b, F s (setLine c b s)
  pending : ∀ (s : State) k b, (b = true → 1 ≤ k ∧ k < s.cfg.plicSources) → F s (setPending k b s)
  enables : ∀ s c v, F s (setEnables c v s)
  prio : ∀ (s : State) p, F s { s with plic := { s.plic with prio := p } }
  threshold : ∀ (s : State) p, F s { s with plic := { s.plic with threshold := p } }
  callbacks : ∀ (s : State) l, F s { s with callbacks := l }

section
variable {F : State → State → Prop}

theorem PlicKept.claimRead (K : PlicKept F) (c : Nat) (s : State) : F s (claimRead c s).2 := by
  have h : ∀ t, F s t → F s (if t.plic.claimOf c = 0 then t else setPending (t.plic.claimOf c) false t) := by
    intro t ht
    split
    · exact ht
    · exact K.trans ht (K.pending _ _ _ (by simp))
  unfold Machine.claimRead
  dsimp only
  split
  · exact h _ (K.select s c false)
  · exact h s (K.refl s)

theorem PlicKept.regEffect (K : PlicKept F) (acc : Access) (r : PlicReg) (data : BitVec 32) (s : State) :
    F s (plicRegEffect acc r data s).2 := by
  have rd : F s (plicRead r s).2 := by
    cases r with
    | claim c => exact K.claimRead c s
    | enable c w =>
      unfold plicRead
      dsimp only
      split
      · exact K.tick s
      · exact K.refl s
    | _ => exact K.refl s
  cases acc
  · exact rd
  · show F s (plicWrite r data s)
    cases r with
    | claim c => exact K.trans (K.select s c false) (K.line _ c _)
    | priority k =>
      unfold plicWrite
      dsimp only
      split
      · exact K.refl s
      · exact K.prio s _
    | enable c w =>
      unfold plicWrite
      dsimp only
      split
      · exact K.trans (K.enables s c _) (K.tick _)
      · exact K.enables s c _
    | threshold c => exact K.threshold s _
    | pending w => exact K.refl s
  · exact rd

theorem PlicKept.raiseContexts (K : PlicKept F) (l : List Nat) (s : State) : F s (l.foldl raiseContext s) := by
  induction l generalizing s with
  | nil => exact K.refl s
  | cons c l ih =>
    refine K.trans ?_ (ih _)
    unfold raiseContext
    dsimp only
    split
    · exact K.select s c true
    · exact K.trans (K.select s c true) (K.line _ c true)

theorem PlicKept.raise (K : PlicKept F) {k : Nat} {s t : State} (h : plicRaise k s = some t) : F s t := by
  unfold plicRaise at h
  split at h
  · simp at h
  · rename_i hk
    injection h with h
    exact h ▸ K.trans (K.pending s k true fun _ => by omega) (K.raiseContexts _ _)

theorem PlicKept.raiseSource (K : PlicKept F) (k : Nat) (s : State) : F s (raiseSource k s) := by
  unfold Machine.raiseSource
  cases h : plicRaise k s with
  | none => exact K.refl s
  | some t => exact K.raise h

theorem PlicKept.raiseAll (K : PlicKept F) (l : List Nat) (s : State) : F s (raiseAll l s) :=
  foldl_frame F K.refl (fun _ _ _ => K.trans) _ (fun s k => K.raiseSource k s) l s

theorem PlicKept.regAccess (K : PlicKept F) (acc : Access) (r : PlicReg) (data : BitVec 32) (s : State) :
    F s (plicRegAccess acc r data s).2 :=
  withCallbacks_keeps F K.trans K.callbacks (fun s l => K.raiseAll l s) _ (K.regEffect acc r data) s

theorem PlicKept.access (K : PlicKept F) (off n : Nat) (acc : Access) (data : Word) (s : State) :
    F s (plicAccess off n acc data s).2 := by
  rcases plicAccess_state off n acc data s with h | ⟨r, d, h⟩ | ⟨r, q, d, e, h⟩ <;> rw [h]
  · exact K.refl s
  · exact K.regAccess acc r d s
  · exact K.trans (K.regAccess acc r d s) (K.regAccess acc q e _)

/-- A request to an external device: what the PLIC's relation needs, and that the record of the request keeps it. -/
theorem PlicKept.device (K : PlicKept F) (hq : ∀ (s : State) q, F s { s with requests := q :: s.requests }) (q : DeviceRequest)
    (s : State) : F s (deviceAccess q s).2 :=
  withCallbacks_keeps F K.trans K.callbacks (fun s l => K.raiseAll l s) _ (fun s => K.trans (hq s q) (K.tick _)) s

end

/-! ### Other agents -/

/-- A relation that the moves of the other agents keep. -/
structure AgentKept (F : State → State → Prop) : Prop extends PlicKept F where
  platform : ∀ s k b, k = 3 ∨ k = 7 → F s (platformInput k b s)
  drop : ∀ s tag, F s (dropEntry tag s)
  csr : ∀ s w, s.cfg.trapUnit = .external → F s (trapUnitCsr s w)
  setPriv : ∀ (s : State) p, s.cfg.trapUnit = .external → F s (s.setPriv p)
  setPc : ∀ (s : State) v, s.cfg.trapUnit = .external → F s (s.setPc v)
  runState : ∀ (s : State), s.cfg.trapUnit = .external → F s { s with runState := .running }

theorem trapUnitCsr_cfg (s : State) (w : (BitVec 2 × Byte) × Word) : (trapUnitCsr s w).cfg = s.cfg := by
  unfold trapUnitCsr
  split
  · rw [satpWrite_frame]
  · rfl

theorem AgentKept.move {F : State → State → Prop} (K : AgentKept F) (m : Turn) (s : State) : F s (agentMove m s) := by
  cases m with
  | hart => exact K.refl s
  | raiseSource k => exact K.toPlicKept.raiseSource k s
  | platformSoftware b => exact K.platform s 3 b (by simp)
  | platformTimer b => exact K.platform s 7 b (by simp)
  | dropTlb tag => exact K.drop s tag
  | trapUnit m =>
    unfold agentMove
    dsimp only
    split
    · rename_i h
      have hf : ∀ (l : List ((BitVec 2 × Byte) × Word)) (t : State), t.cfg = s.cfg →
          F t (l.foldl trapUnitCsr t) ∧ (l.foldl trapUnitCsr t).cfg = s.cfg := by
        intro l
        induction l with
        | nil => exact fun t ht => ⟨K.refl t, ht⟩
        | cons w l ih =>
          intro t ht
          obtain ⟨h1, h2⟩ := ih (trapUnitCsr t w) ((trapUnitCsr_cfg t w).trans ht)
          exact ⟨K.trans (K.csr t w (ht ▸ h)) h1, h2⟩
      obtain ⟨h1, h2⟩ := hf m.csrs s rfl
      unfold trapUnitStep
      exact K.trans h1 <| K.trans (K.setPriv _ _ (h2 ▸ h)) <| K.trans (K.setPc _ _ (h2 ▸ h)) <| K.runState _ (h2 ▸ h)
    · exact K.refl s

/-! ### Traps -/

/-- The CSR values that a trap or a return writes (R921, R922, R931, R932). -/
def trapKeys : List Nat := [kMepc, kMcause, kMtval, kMstatus, kSepc, kScause, kStval]

/-- A relation that the updates of a trap or a return keep. -/
structure TrapKept (F : State → State → Prop) : Prop where
  trans : ∀ {s t u}, F s t → F t u → F s u
  setCsr : ∀ (s : State) k v, k ∈ trapKeys → F s (s.setCsr k v)
  setPriv : ∀ (s : State) p, F s (s.setPriv p)
  setPc : ∀ (s : State) v, v.getLsbD 0 = false → F s (s.setPc v)
  runState : ∀ (s : State) r, s.cfg.trapUnit = .external ∨ r = .running → F s { s with runState := r }

theorem trapTarget_even (v : Word) (i : Option Nat) : (trapTarget v i).getLsbD 0 = false := by
  have h : (v &&& ~~~3#64).getLsbD 0 = false := by simp
  unfold trapTarget
  dsimp only
  split
  · split
    · refine even_add h ?_
      rw [bit0_eq]; simp; omega
    · exact h
  · exact h

section
variable {F : State → State → Prop}

theorem TrapKept.enterM (K : TrapKept F) (cv tval : Word) (i : Option Nat) (s : State) : F s (enterM cv tval i s) := by
  unfold Machine.enterM
  exact K.trans (K.setCsr _ _ _ (by decide)) <| K.trans (K.setCsr _ _ _ (by decide)) <|
    K.trans (K.setCsr _ _ _ (by decide)) <| K.trans (K.setCsr _ _ _ (by decide)) <| K.trans (K.setPriv _ _) <|
    K.setPc _ _ (trapTarget_even _ _)

theorem TrapKept.enterS (K : TrapKept F) (cv tval : Word) (i : Option Nat) (s : State) : F s (enterS cv tval i s) := by
  unfold Machine.enterS
  exact K.trans (K.setCsr _ _ _ (by decide)) <| K.trans (K.setCsr _ _ _ (by decide)) <|
    K.trans (K.setCsr _ _ _ (by decide)) <| K.trans (K.setCsr _ _ _ (by decide)) <| K.trans (K.setPriv _ _) <|
    K.setPc _ _ (trapTarget_even _ _)

theorem TrapKept.takeException (K : TrapKept F) (c : Cause) (tval : Word) (s : State) : F s (takeException c tval s) := by
  unfold Machine.takeException
  dsimp only
  split
  · exact K.trans (K.enterS _ _ _ s) (K.runState _ _ (.inr rfl))
  · exact K.trans (K.enterM _ _ _ s) (K.runState _ _ (.inr rfl))

theorem TrapKept.takeInterrupt (K : TrapKept F) (i : Nat) (s : State) : F s (takeInterrupt i s) := by
  unfold Machine.takeInterrupt
  dsimp only
  split
  · exact K.trans (K.enterS _ _ _ s) (K.runState _ _ (.inr rfl))
  · exact K.trans (K.enterM _ _ _ s) (K.runState _ _ (.inr rfl))

theorem TrapKept.raise (K : TrapKept F) (c : Cause) (tval : Word) (s : State) : F s (raise c tval s) := by
  unfold Machine.raise
  split
  · rename_i h; exact K.runState s _ (.inl h)
  · exact K.takeException c tval s

theorem TrapKept.requestXret (K : TrapKept F) (l : XretLevel) (s : State) : F s (requestXret l s) := by
  have even : ∀ v : Word, (v &&& ~~~1#64).getLsbD 0 = false := fun v => by simp
  unfold Machine.requestXret
  split
  · rename_i h; exact K.runState s _ (.inl h)
  · unfold returnM
    dsimp only
    split
    · exact K.takeException _ _ s
    · exact K.trans (K.setCsr _ _ _ (by decide)) <| K.trans (K.setPriv _ _) <| K.trans (K.setPc _ _ (even _)) <|
        K.runState _ _ (.inr rfl)
  · unfold returnS
    exact K.trans (K.setCsr _ _ _ (by decide)) <| K.trans (K.setPriv _ _) <| K.trans (K.setPc _ _ (even _)) <|
      K.runState _ _ (.inr rfl)

end

/-! ### Instructions -/

/-- The instructions that may write RAM by themselves: stores, SC and AMOs. -/
def writesRam : Instr → Bool
  | .sb .. | .sh .. | .sw .. | .sd .. | .cSw .. | .cSd .. | .cSwsp .. | .cSdsp .. | .scW .. | .scD ..
  | .amoswapW .. | .amoaddW .. | .amoxorW .. | .amoandW .. | .amoorW .. | .amominW .. | .amomaxW .. | .amominuW ..
  | .amomaxuW .. | .amoswapD .. | .amoaddD .. | .amoxorD .. | .amoandD .. | .amoorD .. | .amominD .. | .amomaxD ..
  | .amominuD .. | .amomaxuD .. => true
  | _ => false

/-- The instructions that may change the reservation: those, and LR. -/
def reserves : Instr → Bool
  | .lrW .. | .lrD .. => true
  | i => writesRam i

/-- A relation that the updates of an instruction after its accesses keep; `rs` says whether it may change the reservation. -/
structure FinishKept (rs : Bool) (F : State → State → Prop) : Prop where
  refl : ∀ s, F s s
  trans : ∀ {s t u}, F s t → F t u → F s u
  tick : ∀ s : State, F s s.tick
  setX : ∀ (s : State) r v, F s (s.setX r v)
  setPc : ∀ (s : State) v, (s.pc.getLsbD 0 = false → v.getLsbD 0 = false) → F s (s.setPc v)
  resv : rs = true → ∀ (s : State) b, F s { s with resv := b }
  flush : ∀ s, F s (tlbFlush s)
  csr : ∀ (s : State) a op v r, csrAccess a op v s = some r → F s r.2
  raise : ∀ c v s, F s (raise c v s)
  xret : ∀ l s, F s (requestXret l s)

/-- The answer is a next state, related to the first. -/
def Ends (F : State → State → Prop) (s : State) (o : Out) : Prop := ∃ t, o = .next t ∧ F s t

/-- The answer is a next state, reached by accesses and then by the rest. -/
def Completes (A F : State → State → Prop) (s : State) (o : Out) : Prop := ∃ m t, o = .next t ∧ A s m ∧ F m t

section
variable {st rs : Bool} {A F : State → State → Prop}

theorem FinishKept.advance (K : FinishKept rs F) {n : Nat} (hn : n % 2 = 0) (s : State) : F s (s.advance n) :=
  K.setPc s _ fun h => pcPlus_even h hn

theorem FinishKept.fail (K : FinishKept rs F) {c : Cause} {v : Word} {s : State} : Ends F s (fail c v s) :=
  ⟨_, rfl, K.raise c v s⟩

theorem FinishKept.illegal (K : FinishKept rs F) {i : Instr} {s : State} : Ends F s (illegal i s) := K.fail

theorem FinishKept.writeBack (K : FinishKept rs F) {rd : RegIdx} {v : Word} {n : Nat} {s : State} (hn : n % 2 = 0) :
    Ends F s (writeBack rd v n s) := ⟨_, rfl, K.trans (K.setX s rd v) (K.advance hn _)⟩

theorem FinishKept.noEffect (K : FinishKept rs F) {n : Nat} {s : State} (hn : n % 2 = 0) : Ends F s (noEffect n s) :=
  ⟨_, rfl, K.advance hn s⟩

theorem FinishKept.jumpLink (K : FinishKept rs F) {rd : RegIdx} {v : Word} {n : Nat} {s : State}
    (h : s.pc.getLsbD 0 = false → v.getLsbD 0 = false) : Ends F s (jumpLink rd v n s) :=
  ⟨_, rfl, K.trans (K.setX s rd _) (K.setPc _ _ fun he => h (by simpa using he))⟩

theorem FinishKept.branchIf (K : FinishKept rs F) {b : Bool} {m : Nat} {o : BitVec m} {n : Nat} {s : State} (hn : n % 2 = 0) :
    Ends F s (branchIf b (offsetOf s.cfg.xlen o) n s) := by
  refine ⟨_, rfl, ?_⟩
  cases b
  · exact K.advance hn s
  · exact K.setPc s _ fun h => pcOffset_even h o

theorem FinishKept.storeDone (K : FinishKept rs F) (hr : rs = true) (s : State) : F s (storeDone s) := by
  unfold Machine.storeDone
  split
  · exact K.refl s
  · exact K.resv hr s false
  · exact K.trans (K.resv hr s (s.resv && !Config.freeStoreClears s.free)) (K.tick _)

/-- The rest after an update that the relation allows. -/
theorem FinishKept.after (K : FinishKept rs F) {s t : State} {o : Out} (h : F s t) (he : Ends F t o) : Ends F s o := by
  obtain ⟨u, hu, h'⟩ := he
  exact ⟨u, hu, K.trans h h'⟩

theorem FinishKept.doCsr (K : FinishKept rs F) {i : Instr} {rd : RegIdx} {a : BitVec 12} {op : CsrOp} {v : Word} {s : State} :
    Ends F s (doCsr i rd a op v s) := by
  unfold Machine.doCsr
  split
  · rename_i r h
    exact K.after (K.csr s a op v r h) (K.writeBack rfl)
  · exact K.illegal

theorem FinishKept.mret (K : FinishKept rs F) {s : State} : Ends F s (execMret s) := by
  unfold execMret
  split
  · exact ⟨_, rfl, K.xret .m s⟩
  · exact K.illegal

theorem FinishKept.sret (K : FinishKept rs F) {s : State} : Ends F s (execSret s) := by
  unfold execSret
  split
  · exact K.illegal
  · exact ⟨_, rfl, K.xret .s s⟩

theorem FinishKept.wfi (K : FinishKept rs F) {s : State} : Ends F s (execWfi s) := by
  unfold execWfi
  split
  · exact K.illegal
  · exact K.noEffect rfl

theorem FinishKept.sfenceVma (K : FinishKept rs F) {r q : RegIdx} {s : State} : Ends F s (execSfenceVma r q s) := by
  unfold execSfenceVma
  split
  · exact K.illegal
  · exact K.after (K.flush s) (K.noEffect rfl)

/-- An instruction that makes no access. -/
theorem AccessKept.none (KA : AccessKept st A) {s : State} {o : Out} (h : Ends F s o) : Completes A F s o := by
  obtain ⟨t, ht, h⟩ := h
  exact ⟨s, t, ht, KA.refl s, h⟩

theorem AccessKept.whenLegal (KA : AccessKept st A) (K : FinishKept rs F) {i : Instr} {s : State} {k : State → Out}
    (h : ∀ s, Completes A F s (k s)) : Completes A F s (whenLegal i s k) := by
  unfold Machine.whenLegal
  split
  · exact h s
  · exact KA.none K.illegal

theorem FinishKept.finish (K : FinishKept rs F) {α : Type} {s : State} {r : Res α} {k : α → State → Out} (hr : r.Kept A s)
    (hk : ∀ a t, Ends F t (k a t)) : Completes A F s (r.finish k) := by
  cases r with
  | trap c v t => exact ⟨t, _, rfl, hr, K.raise c v t⟩
  | ok a t =>
    obtain ⟨u, hu, h⟩ := hk a t
    exact ⟨t, u, hu, hr, h⟩

theorem AccessKept.doLoad (KA : AccessKept st A) (K : FinishKept rs F) {k : LoadKind} {rd r : RegIdx} {o : Word} {n : Nat}
    {s : State} (hn : n % 2 = 0) : Completes A F s (doLoad k rd r o n s) :=
  K.finish (KA.memRead _ _ s) fun _ _ => K.writeBack hn

theorem AccessKept.doStore (KA : AccessKept st A) (K : FinishKept rs F) (hs : st = true) (hr : rs = true) {m : Nat}
    {r q : RegIdx} {o : Word} {n : Nat} {s : State} (hn : n % 2 = 0) : Completes A F s (doStore m r q o n s) :=
  K.finish (KA.memWrite hs _ _ _ s) fun _ t => K.after (K.storeDone hr t) (K.noEffect hn)

theorem AccessKept.doLr (KA : AccessKept st A) (K : FinishKept rs F) (hr : rs = true) {n : Nat} {rd r : RegIdx} {s : State} :
    Completes A F s (doLr n rd r s) := by
  unfold Machine.doLr
  dsimp only
  split
  · exact KA.none K.fail
  · exact K.finish (KA.memRead _ _ s) fun v t => K.after (K.resv hr t true) (K.writeBack rfl)

theorem AccessKept.doSc (KA : AccessKept st A) (K : FinishKept rs F) (hs : st = true) (hr : rs = true) {n : Nat}
    {rd r q : RegIdx} {s : State} : Completes A F s (doSc n rd r q s) := by
  unfold Machine.doSc
  dsimp only
  split
  · exact KA.none K.fail
  · split
    · have := KA.memWrite hs (effAddr r 0 s) n (s.x q) s
      split <;> rename_i h <;> rw [h] at this
      · rename_i t
        obtain ⟨u, hu, h⟩ := K.after (K.resv hr t false) (K.writeBack (rd := rd) (v := 0) (n := 4) rfl)
        exact ⟨t, u, hu, this, h⟩
      · rename_i c v t
        exact ⟨t, _, rfl, this, K.trans (K.resv hr t _) (K.trans (K.tick _) (K.raise c v _))⟩
    · exact KA.none (K.after (K.resv hr s false) (K.writeBack rfl))

theorem AccessKept.doAmo (KA : AccessKept st A) (K : FinishKept rs F) (hs : st = true) (hr : rs = true) {n : Nat} {f : BinOp}
    {rd r q : RegIdx} {s : State} : Completes A F s (doAmo n f rd r q s) := by
  unfold Machine.doAmo
  dsimp only
  split
  · exact KA.none K.fail
  · exact K.finish (KA.amoAccess hs n f _ _ s) fun v t => K.after (K.storeDone hr t) (K.writeBack rfl)

end

/-- Every instruction answers a next state, reached by its accesses and then by the rest. -/
theorem exec_completes (i : Instr) {A F : State → State → Prop} (KA : AccessKept (writesRam i) A) (K : FinishKept (reserves i) F)
    (s : State) : Completes A F s (exec i s) := by
  cases i with
  | lui rd imm => show Completes A F s (execLui rd imm s); unfold execLui; exact KA.none (K.writeBack (by decide))
  | auipc rd imm => show Completes A F s (execAuipc rd imm s); unfold execAuipc; exact KA.none (K.writeBack (by decide))
  | addi rd rs1 imm => show Completes A F s (execAddi rd rs1 imm s); unfold execAddi; exact KA.none (K.writeBack (by decide))
  | slti rd rs1 imm => show Completes A F s (execSlti rd rs1 imm s); unfold execSlti; exact KA.none (K.writeBack (by decide))
  | sltiu rd rs1 imm => show Completes A F s (execSltiu rd rs1 imm s); unfold execSltiu; exact KA.none (K.writeBack (by decide))
  | xori rd rs1 imm => show Completes A F s (execXori rd rs1 imm s); unfold execXori; exact KA.none (K.writeBack (by decide))
  | ori rd rs1 imm => show Completes A F s (execOri rd rs1 imm s); unfold execOri; exact KA.none (K.writeBack (by decide))
  | andi rd rs1 imm => show Completes A F s (execAndi rd rs1 imm s); unfold execAndi; exact KA.none (K.writeBack (by decide))
  | slli rd rs1 shamt => show Completes A F s (execSlli rd rs1 shamt s); unfold execSlli; exact KA.whenLegal K fun s => KA.none (K.writeBack (by decide))
  | srli rd rs1 shamt => show Completes A F s (execSrli rd rs1 shamt s); unfold execSrli; exact KA.whenLegal K fun s => KA.none (K.writeBack (by decide))
  | srai rd rs1 shamt => show Completes A F s (execSrai rd rs1 shamt s); unfold execSrai; exact KA.whenLegal K fun s => KA.none (K.writeBack (by decide))
  | add rd rs1 rs2 => show Completes A F s (execAdd rd rs1 rs2 s); unfold execAdd; exact KA.none (K.writeBack (by decide))
  | sub rd rs1 rs2 => show Completes A F s (execSub rd rs1 rs2 s); unfold execSub; exact KA.none (K.writeBack (by decide))
  | sll rd rs1 rs2 => show Completes A F s (execSll rd rs1 rs2 s); unfold execSll; exact KA.none (K.writeBack (by decide))
  | slt rd rs1 rs2 => show Completes A F s (execSlt rd rs1 rs2 s); unfold execSlt; exact KA.none (K.writeBack (by decide))
  | sltu rd rs1 rs2 => show Completes A F s (execSltu rd rs1 rs2 s); unfold execSltu; exact KA.none (K.writeBack (by decide))
  | xor rd rs1 rs2 => show Completes A F s (execXor rd rs1 rs2 s); unfold execXor; exact KA.none (K.writeBack (by decide))
  | srl rd rs1 rs2 => show Completes A F s (execSrl rd rs1 rs2 s); unfold execSrl; exact KA.none (K.writeBack (by decide))
  | sra rd rs1 rs2 => show Completes A F s (execSra rd rs1 rs2 s); unfold execSra; exact KA.none (K.writeBack (by decide))
  | or rd rs1 rs2 => show Completes A F s (execOr rd rs1 rs2 s); unfold execOr; exact KA.none (K.writeBack (by decide))
  | and rd rs1 rs2 => show Completes A F s (execAnd rd rs1 rs2 s); unfold execAnd; exact KA.none (K.writeBack (by decide))
  | addiw rd rs1 imm => show Completes A F s (execAddiw rd rs1 imm s); unfold execAddiw; exact KA.whenLegal K fun s => KA.none (K.writeBack (by decide))
  | slliw rd rs1 shamt => show Completes A F s (execSlliw rd rs1 shamt s); unfold execSlliw; exact KA.whenLegal K fun s => KA.none (K.writeBack (by decide))
  | srliw rd rs1 shamt => show Completes A F s (execSrliw rd rs1 shamt s); unfold execSrliw; exact KA.whenLegal K fun s => KA.none (K.writeBack (by decide))
  | sraiw rd rs1 shamt => show Completes A F s (execSraiw rd rs1 shamt s); unfold execSraiw; exact KA.whenLegal K fun s => KA.none (K.writeBack (by decide))
  | addw rd rs1 rs2 => show Completes A F s (execAddw rd rs1 rs2 s); unfold execAddw; exact KA.whenLegal K fun s => KA.none (K.writeBack (by decide))
  | subw rd rs1 rs2 => show Completes A F s (execSubw rd rs1 rs2 s); unfold execSubw; exact KA.whenLegal K fun s => KA.none (K.writeBack (by decide))
  | sllw rd rs1 rs2 => show Completes A F s (execSllw rd rs1 rs2 s); unfold execSllw; exact KA.whenLegal K fun s => KA.none (K.writeBack (by decide))
  | srlw rd rs1 rs2 => show Completes A F s (execSrlw rd rs1 rs2 s); unfold execSrlw; exact KA.whenLegal K fun s => KA.none (K.writeBack (by decide))
  | sraw rd rs1 rs2 => show Completes A F s (execSraw rd rs1 rs2 s); unfold execSraw; exact KA.whenLegal K fun s => KA.none (K.writeBack (by decide))
  | jal rd offset => show Completes A F s (execJal rd offset s); unfold execJal; exact KA.none (K.jumpLink fun h => pcOffset_even h _)
  | jalr rd rs1 imm => show Completes A F s (execJalr rd rs1 imm s); unfold execJalr; exact KA.none (K.jumpLink fun h => registerTarget_even _ _ _)
  | beq rs1 rs2 offset => show Completes A F s (execBeq rs1 rs2 offset s); unfold execBeq; exact KA.none (K.branchIf (by decide))
  | bne rs1 rs2 offset => show Completes A F s (execBne rs1 rs2 offset s); unfold execBne; exact KA.none (K.branchIf (by decide))
  | blt rs1 rs2 offset => show Completes A F s (execBlt rs1 rs2 offset s); unfold execBlt; exact KA.none (K.branchIf (by decide))
  | bge rs1 rs2 offset => show Completes A F s (execBge rs1 rs2 offset s); unfold execBge; exact KA.none (K.branchIf (by decide))
  | bltu rs1 rs2 offset => show Completes A F s (execBltu rs1 rs2 offset s); unfold execBltu; exact KA.none (K.branchIf (by decide))
  | bgeu rs1 rs2 offset => show Completes A F s (execBgeu rs1 rs2 offset s); unfold execBgeu; exact KA.none (K.branchIf (by decide))
  | lb rd rs1 imm => show Completes A F s (execLb rd rs1 imm s); unfold execLb; exact KA.doLoad K (by decide)
  | lh rd rs1 imm => show Completes A F s (execLh rd rs1 imm s); unfold execLh; exact KA.doLoad K (by decide)
  | lw rd rs1 imm => show Completes A F s (execLw rd rs1 imm s); unfold execLw; exact KA.doLoad K (by decide)
  | ld rd rs1 imm => show Completes A F s (execLd rd rs1 imm s); unfold execLd; exact KA.whenLegal K fun s => KA.doLoad K (by decide)
  | lbu rd rs1 imm => show Completes A F s (execLbu rd rs1 imm s); unfold execLbu; exact KA.doLoad K (by decide)
  | lhu rd rs1 imm => show Completes A F s (execLhu rd rs1 imm s); unfold execLhu; exact KA.doLoad K (by decide)
  | lwu rd rs1 imm => show Completes A F s (execLwu rd rs1 imm s); unfold execLwu; exact KA.whenLegal K fun s => KA.doLoad K (by decide)
  | sb rs1 rs2 imm => show Completes A F s (execSb rs1 rs2 imm s); unfold execSb; exact KA.doStore K rfl rfl (by decide)
  | sh rs1 rs2 imm => show Completes A F s (execSh rs1 rs2 imm s); unfold execSh; exact KA.doStore K rfl rfl (by decide)
  | sw rs1 rs2 imm => show Completes A F s (execSw rs1 rs2 imm s); unfold execSw; exact KA.doStore K rfl rfl (by decide)
  | sd rs1 rs2 imm => show Completes A F s (execSd rs1 rs2 imm s); unfold execSd; exact KA.whenLegal K fun s => KA.doStore K rfl rfl (by decide)
  | fence fm pred succ rs1 rd => show Completes A F s (execFence fm pred succ rs1 rd s); unfold execFence; exact KA.none (K.noEffect (by decide))
  | fenceI imm rs1 rd => show Completes A F s (execFenceI imm rs1 rd s); unfold execFenceI; exact KA.none (K.noEffect (by decide))
  | mul rd rs1 rs2 => show Completes A F s (execMul rd rs1 rs2 s); unfold execMul; exact KA.none (K.writeBack (by decide))
  | mulh rd rs1 rs2 => show Completes A F s (execMulh rd rs1 rs2 s); unfold execMulh; exact KA.none (K.writeBack (by decide))
  | mulhsu rd rs1 rs2 => show Completes A F s (execMulhsu rd rs1 rs2 s); unfold execMulhsu; exact KA.none (K.writeBack (by decide))
  | mulhu rd rs1 rs2 => show Completes A F s (execMulhu rd rs1 rs2 s); unfold execMulhu; exact KA.none (K.writeBack (by decide))
  | div rd rs1 rs2 => show Completes A F s (execDiv rd rs1 rs2 s); unfold execDiv; exact KA.none (K.writeBack (by decide))
  | divu rd rs1 rs2 => show Completes A F s (execDivu rd rs1 rs2 s); unfold execDivu; exact KA.none (K.writeBack (by decide))
  | rem rd rs1 rs2 => show Completes A F s (execRem rd rs1 rs2 s); unfold execRem; exact KA.none (K.writeBack (by decide))
  | remu rd rs1 rs2 => show Completes A F s (execRemu rd rs1 rs2 s); unfold execRemu; exact KA.none (K.writeBack (by decide))
  | mulw rd rs1 rs2 => show Completes A F s (execMulw rd rs1 rs2 s); unfold execMulw; exact KA.whenLegal K fun s => KA.none (K.writeBack (by decide))
  | divw rd rs1 rs2 => show Completes A F s (execDivw rd rs1 rs2 s); unfold execDivw; exact KA.whenLegal K fun s => KA.none (K.writeBack (by decide))
  | divuw rd rs1 rs2 => show Completes A F s (execDivuw rd rs1 rs2 s); unfold execDivuw; exact KA.whenLegal K fun s => KA.none (K.writeBack (by decide))
  | remw rd rs1 rs2 => show Completes A F s (execRemw rd rs1 rs2 s); unfold execRemw; exact KA.whenLegal K fun s => KA.none (K.writeBack (by decide))
  | remuw rd rs1 rs2 => show Completes A F s (execRemuw rd rs1 rs2 s); unfold execRemuw; exact KA.whenLegal K fun s => KA.none (K.writeBack (by decide))
  | lrW rd rs1 aq rl => show Completes A F s (execLrW rd rs1 aq rl s); unfold execLrW; exact KA.doLr K rfl
  | scW rd rs1 rs2 aq rl => show Completes A F s (execScW rd rs1 rs2 aq rl s); unfold execScW; exact KA.doSc K rfl rfl
  | lrD rd rs1 aq rl => show Completes A F s (execLrD rd rs1 aq rl s); unfold execLrD; exact KA.whenLegal K fun s => KA.doLr K rfl
  | scD rd rs1 rs2 aq rl => show Completes A F s (execScD rd rs1 rs2 aq rl s); unfold execScD; exact KA.whenLegal K fun s => KA.doSc K rfl rfl
  | amoswapW rd rs1 rs2 aq rl => show Completes A F s (execAmoswapW rd rs1 rs2 aq rl s); unfold execAmoswapW; exact KA.doAmo K rfl rfl
  | amoaddW rd rs1 rs2 aq rl => show Completes A F s (execAmoaddW rd rs1 rs2 aq rl s); unfold execAmoaddW; exact KA.doAmo K rfl rfl
  | amoxorW rd rs1 rs2 aq rl => show Completes A F s (execAmoxorW rd rs1 rs2 aq rl s); unfold execAmoxorW; exact KA.doAmo K rfl rfl
  | amoandW rd rs1 rs2 aq rl => show Completes A F s (execAmoandW rd rs1 rs2 aq rl s); unfold execAmoandW; exact KA.doAmo K rfl rfl
  | amoorW rd rs1 rs2 aq rl => show Completes A F s (execAmoorW rd rs1 rs2 aq rl s); unfold execAmoorW; exact KA.doAmo K rfl rfl
  | amominW rd rs1 rs2 aq rl => show Completes A F s (execAmominW rd rs1 rs2 aq rl s); unfold execAmominW; exact KA.doAmo K rfl rfl
  | amomaxW rd rs1 rs2 aq rl => show Completes A F s (execAmomaxW rd rs1 rs2 aq rl s); unfold execAmomaxW; exact KA.doAmo K rfl rfl
  | amominuW rd rs1 rs2 aq rl => show Completes A F s (execAmominuW rd rs1 rs2 aq rl s); unfold execAmominuW; exact KA.doAmo K rfl rfl
  | amomaxuW rd rs1 rs2 aq rl => show Completes A F s (execAmomaxuW rd rs1 rs2 aq rl s); unfold execAmomaxuW; exact KA.doAmo K rfl rfl
  | amoswapD rd rs1 rs2 aq rl => show Completes A F s (execAmoswapD rd rs1 rs2 aq rl s); unfold execAmoswapD; exact KA.whenLegal K fun s => KA.doAmo K rfl rfl
  | amoaddD rd rs1 rs2 aq rl => show Completes A F s (execAmoaddD rd rs1 rs2 aq rl s); unfold execAmoaddD; exact KA.whenLegal K fun s => KA.doAmo K rfl rfl
  | amoxorD rd rs1 rs2 aq rl => show Completes A F s (execAmoxorD rd rs1 rs2 aq rl s); unfold execAmoxorD; exact KA.whenLegal K fun s => KA.doAmo K rfl rfl
  | amoandD rd rs1 rs2 aq rl => show Completes A F s (execAmoandD rd rs1 rs2 aq rl s); unfold execAmoandD; exact KA.whenLegal K fun s => KA.doAmo K rfl rfl
  | amoorD rd rs1 rs2 aq rl => show Completes A F s (execAmoorD rd rs1 rs2 aq rl s); unfold execAmoorD; exact KA.whenLegal K fun s => KA.doAmo K rfl rfl
  | amominD rd rs1 rs2 aq rl => show Completes A F s (execAmominD rd rs1 rs2 aq rl s); unfold execAmominD; exact KA.whenLegal K fun s => KA.doAmo K rfl rfl
  | amomaxD rd rs1 rs2 aq rl => show Completes A F s (execAmomaxD rd rs1 rs2 aq rl s); unfold execAmomaxD; exact KA.whenLegal K fun s => KA.doAmo K rfl rfl
  | amominuD rd rs1 rs2 aq rl => show Completes A F s (execAmominuD rd rs1 rs2 aq rl s); unfold execAmominuD; exact KA.whenLegal K fun s => KA.doAmo K rfl rfl
  | amomaxuD rd rs1 rs2 aq rl => show Completes A F s (execAmomaxuD rd rs1 rs2 aq rl s); unfold execAmomaxuD; exact KA.whenLegal K fun s => KA.doAmo K rfl rfl
  | csrrw rd rs1 csr => show Completes A F s (execCsrrw rd rs1 csr s); unfold execCsrrw; exact KA.none K.doCsr
  | csrrs rd rs1 csr => show Completes A F s (execCsrrs rd rs1 csr s); unfold execCsrrs; exact KA.none K.doCsr
  | csrrc rd rs1 csr => show Completes A F s (execCsrrc rd rs1 csr s); unfold execCsrrc; exact KA.none K.doCsr
  | csrrwi rd uimm csr => show Completes A F s (execCsrrwi rd uimm csr s); unfold execCsrrwi; exact KA.none K.doCsr
  | csrrsi rd uimm csr => show Completes A F s (execCsrrsi rd uimm csr s); unfold execCsrrsi; exact KA.none K.doCsr
  | csrrci rd uimm csr => show Completes A F s (execCsrrci rd uimm csr s); unfold execCsrrci; exact KA.none K.doCsr
  | ecall  => show Completes A F s (execEcall  s); unfold execEcall; exact KA.none K.fail
  | ebreak  => show Completes A F s (execEbreak  s); unfold execEbreak; exact KA.none K.fail
  | mret  => show Completes A F s (execMret  s); unfold execMret; exact KA.none K.mret
  | sret  => show Completes A F s (execSret  s); unfold execSret; exact KA.none K.sret
  | wfi  => show Completes A F s (execWfi  s); unfold execWfi; exact KA.none K.wfi
  | sfenceVma rs1 rs2 => show Completes A F s (execSfenceVma rs1 rs2 s); unfold execSfenceVma; exact KA.none K.sfenceVma
  | cAddi4spn rd nzuimm => show Completes A F s (execCAddi4spn rd nzuimm s); unfold execCAddi4spn; exact KA.whenLegal K fun s => KA.none (K.writeBack (by decide))
  | cLw rd rs1 uimm => show Completes A F s (execCLw rd rs1 uimm s); unfold execCLw; exact KA.doLoad K (by decide)
  | cLd rd rs1 uimm => show Completes A F s (execCLd rd rs1 uimm s); unfold execCLd; exact KA.whenLegal K fun s => KA.doLoad K (by decide)
  | cSw rs1 rs2 uimm => show Completes A F s (execCSw rs1 rs2 uimm s); unfold execCSw; exact KA.doStore K rfl rfl (by decide)
  | cSd rs1 rs2 uimm => show Completes A F s (execCSd rs1 rs2 uimm s); unfold execCSd; exact KA.whenLegal K fun s => KA.doStore K rfl rfl (by decide)
  | cNop imm => show Completes A F s (execCNop imm s); unfold execCNop; exact KA.none (K.noEffect (by decide))
  | cAddi rd imm => show Completes A F s (execCAddi rd imm s); unfold execCAddi; exact KA.whenLegal K fun s => KA.none (K.writeBack (by decide))
  | cJal offset => show Completes A F s (execCJal offset s); unfold execCJal; exact KA.whenLegal K fun s => KA.none (K.jumpLink fun h => pcOffset_even h _)
  | cAddiw rd imm => show Completes A F s (execCAddiw rd imm s); unfold execCAddiw; exact KA.whenLegal K fun s => KA.none (K.writeBack (by decide))
  | cLi rd imm => show Completes A F s (execCLi rd imm s); unfold execCLi; exact KA.none (K.writeBack (by decide))
  | cAddi16sp nzimm => show Completes A F s (execCAddi16sp nzimm s); unfold execCAddi16sp; exact KA.whenLegal K fun s => KA.none (K.writeBack (by decide))
  | cLui rd nzimm => show Completes A F s (execCLui rd nzimm s); unfold execCLui; exact KA.whenLegal K fun s => KA.none (K.writeBack (by decide))
  | cSrli rd shamt => show Completes A F s (execCSrli rd shamt s); unfold execCSrli; exact KA.whenLegal K fun s => KA.none (K.writeBack (by decide))
  | cSrai rd shamt => show Completes A F s (execCSrai rd shamt s); unfold execCSrai; exact KA.whenLegal K fun s => KA.none (K.writeBack (by decide))
  | cAndi rd imm => show Completes A F s (execCAndi rd imm s); unfold execCAndi; exact KA.none (K.writeBack (by decide))
  | cSub rd rs2 => show Completes A F s (execCSub rd rs2 s); unfold execCSub; exact KA.none (K.writeBack (by decide))
  | cXor rd rs2 => show Completes A F s (execCXor rd rs2 s); unfold execCXor; exact KA.none (K.writeBack (by decide))
  | cOr rd rs2 => show Completes A F s (execCOr rd rs2 s); unfold execCOr; exact KA.none (K.writeBack (by decide))
  | cAnd rd rs2 => show Completes A F s (execCAnd rd rs2 s); unfold execCAnd; exact KA.none (K.writeBack (by decide))
  | cSubw rd rs2 => show Completes A F s (execCSubw rd rs2 s); unfold execCSubw; exact KA.whenLegal K fun s => KA.none (K.writeBack (by decide))
  | cAddw rd rs2 => show Completes A F s (execCAddw rd rs2 s); unfold execCAddw; exact KA.whenLegal K fun s => KA.none (K.writeBack (by decide))
  | cJ offset => show Completes A F s (execCJ offset s); unfold execCJ; exact KA.none ⟨_, rfl, K.setPc _ _ fun h => pcOffset_even h _⟩
  | cBeqz rs1 offset => show Completes A F s (execCBeqz rs1 offset s); unfold execCBeqz; exact KA.none (K.branchIf (by decide))
  | cBnez rs1 offset => show Completes A F s (execCBnez rs1 offset s); unfold execCBnez; exact KA.none (K.branchIf (by decide))
  | cSlli rd shamt => show Completes A F s (execCSlli rd shamt s); unfold execCSlli; exact KA.whenLegal K fun s => KA.none (K.writeBack (by decide))
  | cLwsp rd uimm => show Completes A F s (execCLwsp rd uimm s); unfold execCLwsp; exact KA.whenLegal K fun s => KA.doLoad K (by decide)
  | cLdsp rd uimm => show Completes A F s (execCLdsp rd uimm s); unfold execCLdsp; exact KA.whenLegal K fun s => KA.doLoad K (by decide)
  | cJr rs1 => show Completes A F s (execCJr rs1 s); unfold execCJr; exact KA.whenLegal K fun s => KA.none ⟨_, rfl, K.setPc _ _ fun h => registerTarget_even _ _ _⟩
  | cMv rd rs2 => show Completes A F s (execCMv rd rs2 s); unfold execCMv; exact KA.whenLegal K fun s => KA.none (K.writeBack (by decide))
  | cEbreak  => show Completes A F s (execCEbreak  s); unfold execCEbreak; exact KA.none K.fail
  | cJalr rs1 => show Completes A F s (execCJalr rs1 s); unfold execCJalr; exact KA.whenLegal K fun s => KA.none (K.jumpLink fun h => registerTarget_even _ _ _)
  | cAdd rd rs2 => show Completes A F s (execCAdd rd rs2 s); unfold execCAdd; exact KA.whenLegal K fun s => KA.none (K.writeBack (by decide))
  | cSwsp rs2 uimm => show Completes A F s (execCSwsp rs2 uimm s); unfold execCSwsp; exact KA.doStore K rfl rfl (by decide)
  | cSdsp rs2 uimm => show Completes A F s (execCSdsp rs2 uimm s); unfold execCSdsp; exact KA.whenLegal K fun s => KA.doStore K rfl rfl (by decide)

/-! ### Steps -/

/-- A relation that the updates of every step keep. -/
structure StepKept (P : State → State → Prop) : Prop extends AccessKept true P, FinishKept true P where
  turns : ∀ (s : State) l, P s { s with turns := l }
  interrupt : ∀ i s, P s (takeInterrupt i s)
  agent : ∀ m s, P s (agentMove m s)

section
variable {P : State → State → Prop}

/-- What every access keeps, one that may do less keeps. -/
theorem StepKept.access (K : StepKept P) (st : Bool) : AccessKept st P :=
  { K.toAccessKept with store := fun _ => K.store rfl }

/-- What every instruction keeps, one that may do less keeps. -/
theorem StepKept.rest (K : StepKept P) (rs : Bool) : FinishKept rs P :=
  { K.toFinishKept with resv := fun _ => K.resv rfl }

theorem StepKept.exec (K : StepKept P) (i : Instr) (s : State) : Ends P s (exec i s) := by
  obtain ⟨m, t, h, h1, h2⟩ := exec_completes i (K.access _) (K.rest _) s
  exact ⟨t, h, K.toAccessKept.trans h1 h2⟩

theorem StepKept.execRaw (K : StepKept P) (r : Raw) (s : State) : Ends P s (execRaw r s) := by
  unfold Machine.execRaw
  split
  · exact K.exec _ s
  · exact K.toFinishKept.fail

theorem StepKept.runInstruction (K : StepKept P) (s : State) : Ends P s (runInstruction s) := by
  obtain ⟨m, t, h, h1, h2⟩ := K.toFinishKept.finish (K.toAccessKept.fetch s) fun r t => K.execRaw r t
  exact ⟨t, h, K.toAccessKept.trans h1 h2⟩

theorem StepKept.hartTurn (K : StepKept P) (s : State) : Ends P s (hartTurn s) := by
  unfold Machine.hartTurn
  split
  · exact ⟨_, rfl, K.interrupt _ s⟩
  · exact K.runInstruction s

/-- What the updates keep, a step keeps. -/
theorem StepKept.step (K : StepKept P) {s t : State} (h : step s = .next t) : P s t := by
  unfold Machine.step at h
  split at h
  · split at h
    · split at h
      · obtain ⟨u, hu, hp⟩ := K.hartTurn s
        rw [hu] at h; injection h with h; exact h ▸ hp
      · simp at h
    · rename_i rest _
      split at h
      · obtain ⟨u, hu, hp⟩ := K.hartTurn { s with turns := rest }
        rw [hu] at h; injection h with h
        exact h ▸ K.toAccessKept.trans (K.turns s rest) hp
      · injection h with h; exact h ▸ K.turns s rest
    · rename_i m rest _ _
      injection h with h
      exact h ▸ K.toAccessKept.trans (K.turns s rest) (K.agent m _)
  · simp at h

end

/-- Every step keeps the relation that always holds. -/
theorem stepKept_true : StepKept fun _ _ => True where
  refl _ := trivial
  trans _ _ := trivial
  tick _ := trivial
  fill _ _ _ _ _ := trivial
  pte _ _ _ _ _ _ := trivial
  plic _ _ _ _ _ := trivial
  device _ _ := trivial
  store _ _ _ _ _ _ := trivial
  setX _ _ _ := trivial
  setPc _ _ _ := trivial
  resv _ _ _ := trivial
  flush _ := trivial
  csr _ _ _ _ _ _ := trivial
  raise _ _ _ := trivial
  xret _ _ := trivial
  turns _ _ := trivial
  interrupt _ _ := trivial
  agent _ _ := trivial

/-- Every instruction answers a next state. -/
theorem exec_next (i : Instr) (s : State) : ∃ t, exec i s = .next t := (stepKept_true.exec i s).imp fun _ => And.left

/-- A step of a well-formed machine that answers no next state is the one of a halted hart with no agent left to move. -/
theorem step_stuck {s : State} (hw : s.cfg.wf = true) (h : ∀ t, step s ≠ .next t) :
    s.runState ≠ .running ∧ s.turns = [] ∧ step s = .fault .hartHalted := by
  unfold Machine.step at h ⊢
  rw [if_pos hw] at h ⊢
  split at h
  · split at h
    · obtain ⟨u, hu, _⟩ := stepKept_true.hartTurn s
      exact absurd hu (h u)
    · rename_i ht hr
      simp [ht, hr]
  · split at h
    · rename_i rest _ _
      obtain ⟨u, hu, _⟩ := stepKept_true.hartTurn { s with turns := rest }
      exact absurd hu (h u)
    · exact absurd rfl (h _)
  · exact absurd rfl (h _)

end Sys2Proof.Machine
end

