-- ==== Sys2Proof/Laws/Encoding.lean ====
section
/-! SUPPORT. Fields of the encoding formats: what the decoder's field functions read from a word that a format builds, and the words
that are built again from their own fields. -/

namespace Sys2Proof

/-! ### rType -/

@[simp] theorem rType_op (f7 : BitVec 7) (rs2 rs1 : RegIdx) (f3 : BitVec 3) (rd : RegIdx) (op5 : BitVec 5) :
    (rType f7 rs2 rs1 f3 rd op5).extractLsb' 2 5 = op5 := by
  apply BitVec.eq_of_getLsbD_eq; intro i hi
  simp only [rType, BitVec.getLsbD_append, BitVec.getLsbD_extractLsb']
  interval_cases i <;> simp

@[simp] theorem rType_f3 (f7 : BitVec 7) (rs2 rs1 : RegIdx) (f3 : BitVec 3) (rd : RegIdx) (op5 : BitVec 5) :
    (rType f7 rs2 rs1 f3 rd op5).extractLsb' 12 3 = f3 := by
  apply BitVec.eq_of_getLsbD_eq; intro i hi
  simp only [rType, BitVec.getLsbD_append, BitVec.getLsbD_extractLsb']
  interval_cases i <;> simp

@[simp] theorem fRd_rType (f7 : BitVec 7) (rs2 rs1 : RegIdx) (f3 : BitVec 3) (rd : RegIdx) (op5 : BitVec 5) :
    fRd (rType f7 rs2 rs1 f3 rd op5) = rd := by
  apply BitVec.eq_of_getLsbD_eq; intro i hi
  simp only [fRd, rType, BitVec.getLsbD_append, BitVec.getLsbD_extractLsb']
  interval_cases i <;> simp

@[simp] theorem fRs1_rType (f7 : BitVec 7) (rs2 rs1 : RegIdx) (f3 : BitVec 3) (rd : RegIdx) (op5 : BitVec 5) :
    fRs1 (rType f7 rs2 rs1 f3 rd op5) = rs1 := by
  apply BitVec.eq_of_getLsbD_eq; intro i hi
  simp only [fRs1, rType, BitVec.getLsbD_append, BitVec.getLsbD_extractLsb']
  interval_cases i <;> simp

@[simp] theorem fRs2_rType (f7 : BitVec 7) (rs2 rs1 : RegIdx) (f3 : BitVec 3) (rd : RegIdx) (op5 : BitVec 5) :
    fRs2 (rType f7 rs2 rs1 f3 rd op5) = rs2 := by
  apply BitVec.eq_of_getLsbD_eq; intro i hi
  simp only [fRs2, rType, BitVec.getLsbD_append, BitVec.getLsbD_extractLsb']
  interval_cases i <;> simp

@[simp] theorem fFunct7_rType (f7 : BitVec 7) (rs2 rs1 : RegIdx) (f3 : BitVec 3) (rd : RegIdx) (op5 : BitVec 5) :
    fFunct7 (rType f7 rs2 rs1 f3 rd op5) = f7 := by
  apply BitVec.eq_of_getLsbD_eq; intro i hi
  simp only [fFunct7, rType, BitVec.getLsbD_append, BitVec.getLsbD_extractLsb']
  interval_cases i <;> simp

/-! ### iType -/

@[simp] theorem iType_op (imm : BitVec 12) (rs1 : RegIdx) (f3 : BitVec 3) (rd : RegIdx) (op5 : BitVec 5) :
    (iType imm rs1 f3 rd op5).extractLsb' 2 5 = op5 := by
  apply BitVec.eq_of_getLsbD_eq; intro i hi
  simp only [iType, BitVec.getLsbD_append, BitVec.getLsbD_extractLsb']
  interval_cases i <;> simp

@[simp] theorem iType_f3 (imm : BitVec 12) (rs1 : RegIdx) (f3 : BitVec 3) (rd : RegIdx) (op5 : BitVec 5) :
    (iType imm rs1 f3 rd op5).extractLsb' 12 3 = f3 := by
  apply BitVec.eq_of_getLsbD_eq; intro i hi
  simp only [iType, BitVec.getLsbD_append, BitVec.getLsbD_extractLsb']
  interval_cases i <;> simp

@[simp] theorem fRd_iType (imm : BitVec 12) (rs1 : RegIdx) (f3 : BitVec 3) (rd : RegIdx) (op5 : BitVec 5) :
    fRd (iType imm rs1 f3 rd op5) = rd := by
  apply BitVec.eq_of_getLsbD_eq; intro i hi
  simp only [fRd, iType, BitVec.getLsbD_append, BitVec.getLsbD_extractLsb']
  interval_cases i <;> simp

@[simp] theorem fRs1_iType (imm : BitVec 12) (rs1 : RegIdx) (f3 : BitVec 3) (rd : RegIdx) (op5 : BitVec 5) :
    fRs1 (iType imm rs1 f3 rd op5) = rs1 := by
  apply BitVec.eq_of_getLsbD_eq; intro i hi
  simp only [fRs1, iType, BitVec.getLsbD_append, BitVec.getLsbD_extractLsb']
  interval_cases i <;> simp

@[simp] theorem fImmI_iType (imm : BitVec 12) (rs1 : RegIdx) (f3 : BitVec 3) (rd : RegIdx) (op5 : BitVec 5) :
    fImmI (iType imm rs1 f3 rd op5) = imm := by
  apply BitVec.eq_of_getLsbD_eq; intro i hi
  simp only [fImmI, iType, BitVec.getLsbD_append, BitVec.getLsbD_extractLsb']
  interval_cases i <;> simp

@[simp] theorem fShamt_iType (imm : BitVec 12) (rs1 : RegIdx) (f3 : BitVec 3) (rd : RegIdx) (op5 : BitVec 5) :
    fShamt (iType imm rs1 f3 rd op5) = imm.extractLsb' 0 6 := by
  apply BitVec.eq_of_getLsbD_eq; intro i hi
  simp only [fShamt, iType, BitVec.getLsbD_append, BitVec.getLsbD_extractLsb']
  interval_cases i <;> simp

@[simp] theorem fFunct6_iType (imm : BitVec 12) (rs1 : RegIdx) (f3 : BitVec 3) (rd : RegIdx) (op5 : BitVec 5) :
    fFunct6 (iType imm rs1 f3 rd op5) = imm.extractLsb' 6 6 := by
  apply BitVec.eq_of_getLsbD_eq; intro i hi
  simp only [fFunct6, iType, BitVec.getLsbD_append, BitVec.getLsbD_extractLsb']
  interval_cases i <;> simp

@[simp] theorem fFunct7_iType (imm : BitVec 12) (rs1 : RegIdx) (f3 : BitVec 3) (rd : RegIdx) (op5 : BitVec 5) :
    fFunct7 (iType imm rs1 f3 rd op5) = imm.extractLsb' 5 7 := by
  apply BitVec.eq_of_getLsbD_eq; intro i hi
  simp only [fFunct7, iType, BitVec.getLsbD_append, BitVec.getLsbD_extractLsb']
  interval_cases i <;> simp

/-! ### sType -/

@[simp] theorem sType_op (imm : BitVec 12) (rs2 rs1 : RegIdx) (f3 : BitVec 3) (op5 : BitVec 5) :
    (sType imm rs2 rs1 f3 op5).extractLsb' 2 5 = op5 := by
  apply BitVec.eq_of_getLsbD_eq; intro i hi
  simp only [sType, BitVec.getLsbD_append, BitVec.getLsbD_extractLsb']
  interval_cases i <;> simp

@[simp] theorem sType_f3 (imm : BitVec 12) (rs2 rs1 : RegIdx) (f3 : BitVec 3) (op5 : BitVec 5) :
    (sType imm rs2 rs1 f3 op5).extractLsb' 12 3 = f3 := by
  apply BitVec.eq_of_getLsbD_eq; intro i hi
  simp only [sType, BitVec.getLsbD_append, BitVec.getLsbD_extractLsb']
  interval_cases i <;> simp

@[simp] theorem fRs1_sType (imm : BitVec 12) (rs2 rs1 : RegIdx) (f3 : BitVec 3) (op5 : BitVec 5) :
    fRs1 (sType imm rs2 rs1 f3 op5) = rs1 := by
  apply BitVec.eq_of_getLsbD_eq; intro i hi
  simp only [fRs1, sType, BitVec.getLsbD_append, BitVec.getLsbD_extractLsb']
  interval_cases i <;> simp

@[simp] theorem fRs2_sType (imm : BitVec 12) (rs2 rs1 : RegIdx) (f3 : BitVec 3) (op5 : BitVec 5) :
    fRs2 (sType imm rs2 rs1 f3 op5) = rs2 := by
  apply BitVec.eq_of_getLsbD_eq; intro i hi
  simp only [fRs2, sType, BitVec.getLsbD_append, BitVec.getLsbD_extractLsb']
  interval_cases i <;> simp

@[simp] theorem fImmS_sType (imm : BitVec 12) (rs2 rs1 : RegIdx) (f3 : BitVec 3) (op5 : BitVec 5) :
    fImmS (sType imm rs2 rs1 f3 op5) = imm := by
  apply BitVec.eq_of_getLsbD_eq; intro i hi
  simp only [fImmS, sType, BitVec.getLsbD_append, BitVec.getLsbD_extractLsb']
  interval_cases i <;> simp

/-! ### bType -/

@[simp] theorem bType_op (offset : BitVec 12) (rs2 rs1 : RegIdx) (f3 : BitVec 3) :
    (bType offset rs2 rs1 f3).extractLsb' 2 5 = 0b11000#5 := by
  apply BitVec.eq_of_getLsbD_eq; intro i hi
  simp only [bType, BitVec.getLsbD_append, BitVec.getLsbD_extractLsb']
  interval_cases i <;> simp

@[simp] theorem bType_f3 (offset : BitVec 12) (rs2 rs1 : RegIdx) (f3 : BitVec 3) :
    (bType offset rs2 rs1 f3).extractLsb' 12 3 = f3 := by
  apply BitVec.eq_of_getLsbD_eq; intro i hi
  simp only [bType, BitVec.getLsbD_append, BitVec.getLsbD_extractLsb']
  interval_cases i <;> simp

@[simp] theorem fRs1_bType (offset : BitVec 12) (rs2 rs1 : RegIdx) (f3 : BitVec 3) :
    fRs1 (bType offset rs2 rs1 f3) = rs1 := by
  apply BitVec.eq_of_getLsbD_eq; intro i hi
  simp only [fRs1, bType, BitVec.getLsbD_append, BitVec.getLsbD_extractLsb']
  interval_cases i <;> simp

@[simp] theorem fRs2_bType (offset : BitVec 12) (rs2 rs1 : RegIdx) (f3 : BitVec 3) :
    fRs2 (bType offset rs2 rs1 f3) = rs2 := by
  apply BitVec.eq_of_getLsbD_eq; intro i hi
  simp only [fRs2, bType, BitVec.getLsbD_append, BitVec.getLsbD_extractLsb']
  interval_cases i <;> simp

@[simp] theorem fImmB_bType (offset : BitVec 12) (rs2 rs1 : RegIdx) (f3 : BitVec 3) :
    fImmB (bType offset rs2 rs1 f3) = offset := by
  apply BitVec.eq_of_getLsbD_eq; intro i hi
  simp only [fImmB, bType, BitVec.getLsbD_append, BitVec.getLsbD_extractLsb']
  interval_cases i <;> simp

/-! ### uType -/

@[simp] theorem uType_op (imm : BitVec 20) (rd : RegIdx) (op5 : BitVec 5) :
    (uType imm rd op5).extractLsb' 2 5 = op5 := by
  apply BitVec.eq_of_getLsbD_eq; intro i hi
  simp only [uType, BitVec.getLsbD_append, BitVec.getLsbD_extractLsb']
  interval_cases i <;> simp

@[simp] theorem fRd_uType (imm : BitVec 20) (rd : RegIdx) (op5 : BitVec 5) :
    fRd (uType imm rd op5) = rd := by
  apply BitVec.eq_of_getLsbD_eq; intro i hi
  simp only [fRd, uType, BitVec.getLsbD_append, BitVec.getLsbD_extractLsb']
  interval_cases i <;> simp

@[simp] theorem fImmU_uType (imm : BitVec 20) (rd : RegIdx) (op5 : BitVec 5) :
    fImmU (uType imm rd op5) = imm := by
  apply BitVec.eq_of_getLsbD_eq; intro i hi
  simp only [fImmU, uType, BitVec.getLsbD_append, BitVec.getLsbD_extractLsb']
  interval_cases i <;> simp

/-! ### jType -/

@[simp] theorem jType_op (offset : BitVec 20) (rd : RegIdx) :
    (jType offset rd).extractLsb' 2 5 = 0b11011#5 := by
  apply BitVec.eq_of_getLsbD_eq; intro i hi
  simp only [jType, BitVec.getLsbD_append, BitVec.getLsbD_extractLsb']
  interval_cases i <;> simp

@[simp] theorem fRd_jType (offset : BitVec 20) (rd : RegIdx) :
    fRd (jType offset rd) = rd := by
  apply BitVec.eq_of_getLsbD_eq; intro i hi
  simp only [fRd, jType, BitVec.getLsbD_append, BitVec.getLsbD_extractLsb']
  interval_cases i <;> simp

@[simp] theorem fImmJ_jType (offset : BitVec 20) (rd : RegIdx) :
    fImmJ (jType offset rd) = offset := by
  apply BitVec.eq_of_getLsbD_eq; intro i hi
  simp only [fImmJ, jType, BitVec.getLsbD_append, BitVec.getLsbD_extractLsb']
  interval_cases i <;> simp

/-! ### amoType -/

@[simp] theorem amoType_op (f5 : BitVec 5) (aq rl : Bool) (rs2 rs1 : RegIdx) (f3 : BitVec 3) (rd : RegIdx) :
    (amoType f5 aq rl rs2 rs1 f3 rd).extractLsb' 2 5 = 0b01011#5 := by
  apply BitVec.eq_of_getLsbD_eq; intro i hi
  simp only [amoType, BitVec.getLsbD_append, BitVec.getLsbD_extractLsb']
  interval_cases i <;> simp

@[simp] theorem amoType_f3 (f5 : BitVec 5) (aq rl : Bool) (rs2 rs1 : RegIdx) (f3 : BitVec 3) (rd : RegIdx) :
    (amoType f5 aq rl rs2 rs1 f3 rd).extractLsb' 12 3 = f3 := by
  apply BitVec.eq_of_getLsbD_eq; intro i hi
  simp only [amoType, BitVec.getLsbD_append, BitVec.getLsbD_extractLsb']
  interval_cases i <;> simp

@[simp] theorem amoType_f5 (f5 : BitVec 5) (aq rl : Bool) (rs2 rs1 : RegIdx) (f3 : BitVec 3) (rd : RegIdx) :
    (amoType f5 aq rl rs2 rs1 f3 rd).extractLsb' 27 5 = f5 := by
  apply BitVec.eq_of_getLsbD_eq; intro i hi
  simp only [amoType, BitVec.getLsbD_append, BitVec.getLsbD_extractLsb']
  interval_cases i <;> simp

@[simp] theorem fRd_amoType (f5 : BitVec 5) (aq rl : Bool) (rs2 rs1 : RegIdx) (f3 : BitVec 3) (rd : RegIdx) :
    fRd (amoType f5 aq rl rs2 rs1 f3 rd) = rd := by
  apply BitVec.eq_of_getLsbD_eq; intro i hi
  simp only [fRd, amoType, BitVec.getLsbD_append, BitVec.getLsbD_extractLsb']
  interval_cases i <;> simp

@[simp] theorem fRs1_amoType (f5 : BitVec 5) (aq rl : Bool) (rs2 rs1 : RegIdx) (f3 : BitVec 3) (rd : RegIdx) :
    fRs1 (amoType f5 aq rl rs2 rs1 f3 rd) = rs1 := by
  apply BitVec.eq_of_getLsbD_eq; intro i hi
  simp only [fRs1, amoType, BitVec.getLsbD_append, BitVec.getLsbD_extractLsb']
  interval_cases i <;> simp

@[simp] theorem fRs2_amoType (f5 : BitVec 5) (aq rl : Bool) (rs2 rs1 : RegIdx) (f3 : BitVec 3) (rd : RegIdx) :
    fRs2 (amoType f5 aq rl rs2 rs1 f3 rd) = rs2 := by
  apply BitVec.eq_of_getLsbD_eq; intro i hi
  simp only [fRs2, amoType, BitVec.getLsbD_append, BitVec.getLsbD_extractLsb']
  interval_cases i <;> simp

@[simp] theorem extract_funct6 (a sh : BitVec 6) :
    (a ++ sh : BitVec 12).extractLsb' 6 6 = a := by
  apply BitVec.eq_of_getLsbD_eq; intro i hi
  simp only [BitVec.getLsbD_append, BitVec.getLsbD_append, BitVec.getLsbD_extractLsb']
  interval_cases i <;> simp

@[simp] theorem extract_shamt (a sh : BitVec 6) :
    (a ++ sh : BitVec 12).extractLsb' 0 6 = sh := by
  apply BitVec.eq_of_getLsbD_eq; intro i hi
  simp only [BitVec.getLsbD_append, BitVec.getLsbD_append, BitVec.getLsbD_extractLsb']
  interval_cases i <;> simp

@[simp] theorem extract_fm (a b c : BitVec 4) (rs1 : RegIdx) (f3 : BitVec 3) (rd : RegIdx) (op5 : BitVec 5) :
    (iType (a ++ b ++ c) rs1 f3 rd op5).extractLsb' 28 4 = a := by
  apply BitVec.eq_of_getLsbD_eq; intro i hi
  simp only [iType, BitVec.getLsbD_append, BitVec.getLsbD_extractLsb']
  interval_cases i <;> simp

@[simp] theorem extract_pred (a b c : BitVec 4) (rs1 : RegIdx) (f3 : BitVec 3) (rd : RegIdx) (op5 : BitVec 5) :
    (iType (a ++ b ++ c) rs1 f3 rd op5).extractLsb' 24 4 = b := by
  apply BitVec.eq_of_getLsbD_eq; intro i hi
  simp only [iType, BitVec.getLsbD_append, BitVec.getLsbD_extractLsb']
  interval_cases i <;> simp

@[simp] theorem extract_succ (a b c : BitVec 4) (rs1 : RegIdx) (f3 : BitVec 3) (rd : RegIdx) (op5 : BitVec 5) :
    (iType (a ++ b ++ c) rs1 f3 rd op5).extractLsb' 20 4 = c := by
  apply BitVec.eq_of_getLsbD_eq; intro i hi
  simp only [iType, BitVec.getLsbD_append, BitVec.getLsbD_extractLsb']
  interval_cases i <;> simp

@[simp] theorem shift_bit10 (a sh : BitVec 6) : (a ++ sh : BitVec 12)[10] = a[4] := by
  rw [← BitVec.getLsbD_eq_getElem, ← BitVec.getLsbD_eq_getElem]
  simp only [BitVec.getLsbD_append]
  simp

@[simp] theorem rType_bit30 (f7 : BitVec 7) (rs2 rs1 : RegIdx) (f3 : BitVec 3) (rd : RegIdx) (op5 : BitVec 5) :
    (rType f7 rs2 rs1 f3 rd op5)[30] = f7[5] := by
  rw [← BitVec.getLsbD_eq_getElem, ← BitVec.getLsbD_eq_getElem]
  simp only [rType, BitVec.getLsbD_append]
  simp

@[simp] theorem iType_bit30 (imm : BitVec 12) (rs1 : RegIdx) (f3 : BitVec 3) (rd : RegIdx) (op5 : BitVec 5) :
    (iType imm rs1 f3 rd op5)[30] = imm[10] := by
  rw [← BitVec.getLsbD_eq_getElem, ← BitVec.getLsbD_eq_getElem]
  simp only [iType, BitVec.getLsbD_append]
  simp

@[simp] theorem fAq_amoType (f5 : BitVec 5) (aq rl : Bool) (rs2 rs1 : RegIdx) (f3 : BitVec 3) (rd : RegIdx) :
    fAq (amoType f5 aq rl rs2 rs1 f3 rd) = aq := by
  simp only [fAq, amoType, BitVec.getLsbD_append]
  simp

@[simp] theorem fRl_amoType (f5 : BitVec 5) (aq rl : Bool) (rs2 rs1 : RegIdx) (f3 : BitVec 3) (rd : RegIdx) :
    fRl (amoType f5 aq rl rs2 rs1 f3 rd) = rl := by
  simp only [fRl, amoType, BitVec.getLsbD_append]
  simp

/-! ### Words put together again -/

theorem rType_fields (w : BitVec 32) (h : w.extractLsb' 0 2 = 0b11#2) :
    rType (fFunct7 w) (fRs2 w) (fRs1 w) (w.extractLsb' 12 3) (fRd w) (w.extractLsb' 2 5) = w := by
  have h0 : w.getLsbD 0 = true := by have := congrArg (fun v => v.getLsbD 0) h; simpa using this
  have h1 : w.getLsbD 1 = true := by have := congrArg (fun v => v.getLsbD 1) h; simpa using this
  apply BitVec.eq_of_getLsbD_eq; intro i hi
  simp only [rType, fFunct7, fRs2, fRs1, fRd, BitVec.getLsbD_append, BitVec.getLsbD_extractLsb']
  interval_cases i <;> simp [h0, h1]

theorem iType_fields (w : BitVec 32) (h : w.extractLsb' 0 2 = 0b11#2) :
    iType (fImmI w) (fRs1 w) (w.extractLsb' 12 3) (fRd w) (w.extractLsb' 2 5) = w := by
  have h0 : w.getLsbD 0 = true := by have := congrArg (fun v => v.getLsbD 0) h; simpa using this
  have h1 : w.getLsbD 1 = true := by have := congrArg (fun v => v.getLsbD 1) h; simpa using this
  apply BitVec.eq_of_getLsbD_eq; intro i hi
  simp only [iType, fImmI, fRs1, fRd, BitVec.getLsbD_append, BitVec.getLsbD_extractLsb']
  interval_cases i <;> simp [h0, h1]

theorem sType_fields (w : BitVec 32) (h : w.extractLsb' 0 2 = 0b11#2) :
    sType (fImmS w) (fRs2 w) (fRs1 w) (w.extractLsb' 12 3) (w.extractLsb' 2 5) = w := by
  have h0 : w.getLsbD 0 = true := by have := congrArg (fun v => v.getLsbD 0) h; simpa using this
  have h1 : w.getLsbD 1 = true := by have := congrArg (fun v => v.getLsbD 1) h; simpa using this
  apply BitVec.eq_of_getLsbD_eq; intro i hi
  simp only [sType, fImmS, fRs1, fRs2, BitVec.getLsbD_append, BitVec.getLsbD_extractLsb']
  interval_cases i <;> simp [h0, h1]

theorem uType_fields (w : BitVec 32) (h : w.extractLsb' 0 2 = 0b11#2) :
    uType (fImmU w) (fRd w) (w.extractLsb' 2 5) = w := by
  have h0 : w.getLsbD 0 = true := by have := congrArg (fun v => v.getLsbD 0) h; simpa using this
  have h1 : w.getLsbD 1 = true := by have := congrArg (fun v => v.getLsbD 1) h; simpa using this
  apply BitVec.eq_of_getLsbD_eq; intro i hi
  simp only [uType, fImmU, fRd, BitVec.getLsbD_append, BitVec.getLsbD_extractLsb']
  interval_cases i <;> simp [h0, h1]

theorem bType_fields (w : BitVec 32) (h : w.extractLsb' 0 2 = 0b11#2) (h5 : w.extractLsb' 2 5 = 0b11000#5) :
    bType (fImmB w) (fRs2 w) (fRs1 w) (w.extractLsb' 12 3) = w := by
  have e : bType (fImmB w) (fRs2 w) (fRs1 w) (w.extractLsb' 12 3) = rType (fFunct7 w) (fRs2 w) (fRs1 w) (w.extractLsb' 12 3) (fRd w) 0b11000#5 := by
    apply BitVec.eq_of_getLsbD_eq; intro i hi
    simp only [bType, rType, fFunct7, fRs2, fRs1, fRd, fImmB, BitVec.getLsbD_append, BitVec.getLsbD_extractLsb']
    interval_cases i <;> simp
  rw [e, ← h5]; exact rType_fields w h

theorem jType_fields (w : BitVec 32) (h : w.extractLsb' 0 2 = 0b11#2) (h5 : w.extractLsb' 2 5 = 0b11011#5) :
    jType (fImmJ w) (fRd w) = w := by
  have e : jType (fImmJ w) (fRd w) = rType (fFunct7 w) (fRs2 w) (fRs1 w) (w.extractLsb' 12 3) (fRd w) 0b11011#5 := by
    apply BitVec.eq_of_getLsbD_eq; intro i hi
    simp only [jType, rType, fFunct7, fRs2, fRs1, fRd, fImmJ, BitVec.getLsbD_append, BitVec.getLsbD_extractLsb']
    interval_cases i <;> simp
  rw [e, ← h5]; exact rType_fields w h

theorem amoType_fields (w : BitVec 32) (h : w.extractLsb' 0 2 = 0b11#2) (h5 : w.extractLsb' 2 5 = 0b01011#5) :
    amoType (w.extractLsb' 27 5) (fAq w) (fRl w) (fRs2 w) (fRs1 w) (w.extractLsb' 12 3) (fRd w) = w := by
  have e : amoType (w.extractLsb' 27 5) (fAq w) (fRl w) (fRs2 w) (fRs1 w) (w.extractLsb' 12 3) (fRd w) = rType (fFunct7 w) (fRs2 w) (fRs1 w) (w.extractLsb' 12 3) (fRd w) 0b01011#5 := by
    apply BitVec.eq_of_getLsbD_eq; intro i hi
    simp only [amoType, rType, fFunct7, fRs2, fRs1, fRd, fAq, fRl, BitVec.getLsbD_append, BitVec.getLsbD_extractLsb']
    interval_cases i <;> simp
  rw [e, ← h5]; exact rType_fields w h

/-- The table's slot by opcode, funct3 and inst[30] (R310). -/
theorem slot32_fid (x : Xlen) (w : BitVec 32) :
    slot32 x (fid w) = slotOf x (w.extractLsb' 2 5) (w.extractLsb' 12 3) w[30] := by
  have a : (fid w).extractLsb' 0 5 = w.extractLsb' 2 5 := by
    apply BitVec.eq_of_getLsbD_eq; intro i hi
    simp only [fid, BitVec.getLsbD_append, BitVec.getLsbD_extractLsb']
    interval_cases i <;> simp
  have b : (fid w).extractLsb' 5 3 = w.extractLsb' 12 3 := by
    apply BitVec.eq_of_getLsbD_eq; intro i hi
    simp only [fid, BitVec.getLsbD_append, BitVec.getLsbD_extractLsb']
    interval_cases i <;> simp
  have c : (fid w).getLsbD 8 = w[30] := by
    rw [← BitVec.getLsbD_eq_getElem]
    simp only [fid, BitVec.getLsbD_append]; simp
  rw [slot32, a, b, c]

/-! ### Compressed formats -/

/-! ### ciType -/

@[simp] theorem cid_ciType (f3 : BitVec 3) (imm : BitVec 6) (rd : RegIdx) (op : BitVec 2) :
    cid (ciType f3 imm rd op) = f3 ++ op := by
  apply BitVec.eq_of_getLsbD_eq; intro i hi
  simp only [cid, ciType, BitVec.getLsbD_append, BitVec.getLsbD_extractLsb']
  interval_cases i <;> simp

@[simp] theorem cRd_ciType (f3 : BitVec 3) (imm : BitVec 6) (rd : RegIdx) (op : BitVec 2) :
    cRd (ciType f3 imm rd op) = rd := by
  apply BitVec.eq_of_getLsbD_eq; intro i hi
  simp only [cRd, ciType, BitVec.getLsbD_append, BitVec.getLsbD_extractLsb']
  interval_cases i <;> simp

@[simp] theorem cImm6_ciType (f3 : BitVec 3) (imm : BitVec 6) (rd : RegIdx) (op : BitVec 2) :
    cImm6 (ciType f3 imm rd op) = imm := by
  apply BitVec.eq_of_getLsbD_eq; intro i hi
  simp only [cImm6, ciType, BitVec.getLsbD_append, BitVec.getLsbD_extractLsb']
  interval_cases i <;> simp

@[simp] theorem cRs2_ciType (f3 : BitVec 3) (imm : BitVec 6) (rd : RegIdx) (op : BitVec 2) :
    cRs2 (ciType f3 imm rd op) = imm.extractLsb' 0 5 := by
  apply BitVec.eq_of_getLsbD_eq; intro i hi
  simp only [cRs2, ciType, BitVec.getLsbD_append, BitVec.getLsbD_extractLsb']
  interval_cases i <;> simp

/-! ### clwType -/

@[simp] theorem cid_clwType (f3 : BitVec 3) (uimm : BitVec 5) (hi lo : CRegIdx) :
    cid (clwType f3 uimm hi lo) = f3 ++ 0b00#2 := by
  apply BitVec.eq_of_getLsbD_eq; intro i hi
  simp only [cid, clwType, BitVec.getLsbD_append, BitVec.getLsbD_extractLsb']
  interval_cases i <;> simp

@[simp] theorem cHi_clwType (f3 : BitVec 3) (uimm : BitVec 5) (hi lo : CRegIdx) :
    cHi (clwType f3 uimm hi lo) = hi := by
  apply BitVec.eq_of_getLsbD_eq; intro i hi
  simp only [cHi, clwType, BitVec.getLsbD_append, BitVec.getLsbD_extractLsb']
  interval_cases i <;> simp

@[simp] theorem cLo_clwType (f3 : BitVec 3) (uimm : BitVec 5) (hi lo : CRegIdx) :
    cLo (clwType f3 uimm hi lo) = lo := by
  apply BitVec.eq_of_getLsbD_eq; intro i hi
  simp only [cLo, clwType, BitVec.getLsbD_append, BitVec.getLsbD_extractLsb']
  interval_cases i <;> simp

@[simp] theorem cImmW_clwType (f3 : BitVec 3) (uimm : BitVec 5) (hi lo : CRegIdx) :
    cImmW (clwType f3 uimm hi lo) = uimm := by
  apply BitVec.eq_of_getLsbD_eq; intro i hi
  simp only [cImmW, clwType, BitVec.getLsbD_append, BitVec.getLsbD_extractLsb']
  interval_cases i <;> simp

/-! ### cldType -/

@[simp] theorem cid_cldType (f3 : BitVec 3) (uimm : BitVec 5) (hi lo : CRegIdx) :
    cid (cldType f3 uimm hi lo) = f3 ++ 0b00#2 := by
  apply BitVec.eq_of_getLsbD_eq; intro i hi
  simp only [cid, cldType, BitVec.getLsbD_append, BitVec.getLsbD_extractLsb']
  interval_cases i <;> simp

@[simp] theorem cHi_cldType (f3 : BitVec 3) (uimm : BitVec 5) (hi lo : CRegIdx) :
    cHi (cldType f3 uimm hi lo) = hi := by
  apply BitVec.eq_of_getLsbD_eq; intro i hi
  simp only [cHi, cldType, BitVec.getLsbD_append, BitVec.getLsbD_extractLsb']
  interval_cases i <;> simp

@[simp] theorem cLo_cldType (f3 : BitVec 3) (uimm : BitVec 5) (hi lo : CRegIdx) :
    cLo (cldType f3 uimm hi lo) = lo := by
  apply BitVec.eq_of_getLsbD_eq; intro i hi
  simp only [cLo, cldType, BitVec.getLsbD_append, BitVec.getLsbD_extractLsb']
  interval_cases i <;> simp

@[simp] theorem cImmD_cldType (f3 : BitVec 3) (uimm : BitVec 5) (hi lo : CRegIdx) :
    cImmD (cldType f3 uimm hi lo) = uimm := by
  apply BitVec.eq_of_getLsbD_eq; intro i hi
  simp only [cImmD, cldType, BitVec.getLsbD_append, BitVec.getLsbD_extractLsb']
  interval_cases i <;> simp

/-! ### caType -/

@[simp] theorem cid_caType (f6 : BitVec 6) (rd : CRegIdx) (f2 : BitVec 2) (rs2 : CRegIdx) :
    cid (caType f6 rd f2 rs2) = f6.extractLsb' 3 3 ++ 0b01#2 := by
  apply BitVec.eq_of_getLsbD_eq; intro i hi
  simp only [cid, caType, BitVec.getLsbD_append, BitVec.getLsbD_extractLsb']
  interval_cases i <;> simp

@[simp] theorem cHi_caType (f6 : BitVec 6) (rd : CRegIdx) (f2 : BitVec 2) (rs2 : CRegIdx) :
    cHi (caType f6 rd f2 rs2) = rd := by
  apply BitVec.eq_of_getLsbD_eq; intro i hi
  simp only [cHi, caType, BitVec.getLsbD_append, BitVec.getLsbD_extractLsb']
  interval_cases i <;> simp

@[simp] theorem cLo_caType (f6 : BitVec 6) (rd : CRegIdx) (f2 : BitVec 2) (rs2 : CRegIdx) :
    cLo (caType f6 rd f2 rs2) = rs2 := by
  apply BitVec.eq_of_getLsbD_eq; intro i hi
  simp only [cLo, caType, BitVec.getLsbD_append, BitVec.getLsbD_extractLsb']
  interval_cases i <;> simp

@[simp] theorem caType_x10_2 (f6 : BitVec 6) (rd : CRegIdx) (f2 : BitVec 2) (rs2 : CRegIdx) :
    (caType f6 rd f2 rs2).extractLsb' 10 2 = f6.extractLsb' 0 2 := by
  apply BitVec.eq_of_getLsbD_eq; intro i hi
  simp only [caType, BitVec.getLsbD_append, BitVec.getLsbD_extractLsb']
  interval_cases i <;> simp

@[simp] theorem caType_x5_2 (f6 : BitVec 6) (rd : CRegIdx) (f2 : BitVec 2) (rs2 : CRegIdx) :
    (caType f6 rd f2 rs2).extractLsb' 5 2 = f2 := by
  apply BitVec.eq_of_getLsbD_eq; intro i hi
  simp only [caType, BitVec.getLsbD_append, BitVec.getLsbD_extractLsb']
  interval_cases i <;> simp

/-! ### cbAluType -/

@[simp] theorem cid_cbAluType (imm : BitVec 6) (f2 : BitVec 2) (rd : CRegIdx) :
    cid (cbAluType imm f2 rd) = 0b10001#5 := by
  apply BitVec.eq_of_getLsbD_eq; intro i hi
  simp only [cid, cbAluType, BitVec.getLsbD_append, BitVec.getLsbD_extractLsb']
  interval_cases i <;> simp

@[simp] theorem cHi_cbAluType (imm : BitVec 6) (f2 : BitVec 2) (rd : CRegIdx) :
    cHi (cbAluType imm f2 rd) = rd := by
  apply BitVec.eq_of_getLsbD_eq; intro i hi
  simp only [cHi, cbAluType, BitVec.getLsbD_append, BitVec.getLsbD_extractLsb']
  interval_cases i <;> simp

@[simp] theorem cImm6_cbAluType (imm : BitVec 6) (f2 : BitVec 2) (rd : CRegIdx) :
    cImm6 (cbAluType imm f2 rd) = imm := by
  apply BitVec.eq_of_getLsbD_eq; intro i hi
  simp only [cImm6, cbAluType, BitVec.getLsbD_append, BitVec.getLsbD_extractLsb']
  interval_cases i <;> simp

@[simp] theorem cbAluType_x10_2 (imm : BitVec 6) (f2 : BitVec 2) (rd : CRegIdx) :
    (cbAluType imm f2 rd).extractLsb' 10 2 = f2 := by
  apply BitVec.eq_of_getLsbD_eq; intro i hi
  simp only [cbAluType, BitVec.getLsbD_append, BitVec.getLsbD_extractLsb']
  interval_cases i <;> simp

/-! ### cjType -/

@[simp] theorem cid_cjType (f3 : BitVec 3) (offset : BitVec 11) :
    cid (cjType f3 offset) = f3 ++ 0b01#2 := by
  apply BitVec.eq_of_getLsbD_eq; intro i hi
  simp only [cid, cjType, BitVec.getLsbD_append, BitVec.getLsbD_extractLsb']
  interval_cases i <;> simp

@[simp] theorem cImmJ_cjType (f3 : BitVec 3) (offset : BitVec 11) :
    cImmJ (cjType f3 offset) = offset := by
  apply BitVec.eq_of_getLsbD_eq; intro i hi
  simp only [cImmJ, cjType, BitVec.getLsbD_append, BitVec.getLsbD_extractLsb']
  interval_cases i <;> simp

/-! ### cbType -/

@[simp] theorem cid_cbType (f3 : BitVec 3) (offset : BitVec 8) (rs1 : CRegIdx) :
    cid (cbType f3 offset rs1) = f3 ++ 0b01#2 := by
  apply BitVec.eq_of_getLsbD_eq; intro i hi
  simp only [cid, cbType, BitVec.getLsbD_append, BitVec.getLsbD_extractLsb']
  interval_cases i <;> simp

@[simp] theorem cHi_cbType (f3 : BitVec 3) (offset : BitVec 8) (rs1 : CRegIdx) :
    cHi (cbType f3 offset rs1) = rs1 := by
  apply BitVec.eq_of_getLsbD_eq; intro i hi
  simp only [cHi, cbType, BitVec.getLsbD_append, BitVec.getLsbD_extractLsb']
  interval_cases i <;> simp

@[simp] theorem cImmB_cbType (f3 : BitVec 3) (offset : BitVec 8) (rs1 : CRegIdx) :
    cImmB (cbType f3 offset rs1) = offset := by
  apply BitVec.eq_of_getLsbD_eq; intro i hi
  simp only [cImmB, cbType, BitVec.getLsbD_append, BitVec.getLsbD_extractLsb']
  interval_cases i <;> simp

/-! ### crType -/

@[simp] theorem cid_crType (f4 : BitVec 4) (rd rs2 : RegIdx) :
    cid (crType f4 rd rs2) = f4.extractLsb' 1 3 ++ 0b10#2 := by
  apply BitVec.eq_of_getLsbD_eq; intro i hi
  simp only [cid, crType, BitVec.getLsbD_append, BitVec.getLsbD_extractLsb']
  interval_cases i <;> simp

@[simp] theorem cRd_crType (f4 : BitVec 4) (rd rs2 : RegIdx) :
    cRd (crType f4 rd rs2) = rd := by
  apply BitVec.eq_of_getLsbD_eq; intro i hi
  simp only [cRd, crType, BitVec.getLsbD_append, BitVec.getLsbD_extractLsb']
  interval_cases i <;> simp

@[simp] theorem cRs2_crType (f4 : BitVec 4) (rd rs2 : RegIdx) :
    cRs2 (crType f4 rd rs2) = rs2 := by
  apply BitVec.eq_of_getLsbD_eq; intro i hi
  simp only [cRs2, crType, BitVec.getLsbD_append, BitVec.getLsbD_extractLsb']
  interval_cases i <;> simp

@[simp] theorem caType_bit12 (f6 : BitVec 6) (rd : CRegIdx) (f2 : BitVec 2) (rs2 : CRegIdx) :
    (caType f6 rd f2 rs2)[12] = f6[2] := by
  rw [← BitVec.getLsbD_eq_getElem, ← BitVec.getLsbD_eq_getElem]
  simp only [caType, BitVec.getLsbD_append]
  simp

@[simp] theorem crType_bit12 (f4 : BitVec 4) (rd rs2 : RegIdx) :
    (crType f4 rd rs2)[12] = f4[0] := by
  rw [← BitVec.getLsbD_eq_getElem, ← BitVec.getLsbD_eq_getElem]
  simp only [crType, BitVec.getLsbD_append]
  simp

theorem ciType_fields (h : BitVec 16)  :
    ciType (h.extractLsb' 13 3) (cImm6 h) (cRd h) (h.extractLsb' 0 2) = h := by
  apply BitVec.eq_of_getLsbD_eq; intro i hi
  simp only [ciType, cImm6, cRd, BitVec.getLsbD_append, BitVec.getLsbD_extractLsb']
  interval_cases i <;> simp

theorem clwType_fields (h : BitVec 16)  :
    clwType (h.extractLsb' 13 3) (cImmW h) (cHi h) (cLo h) = ciType (h.extractLsb' 13 3) (cImm6 h) (cRd h) 0b00#2 := by
  apply BitVec.eq_of_getLsbD_eq; intro i hi
  simp only [clwType, ciType, cImm6, cRd, cImmW, cHi, cLo, BitVec.getLsbD_append, BitVec.getLsbD_extractLsb']
  interval_cases i <;> simp

theorem cldType_fields (h : BitVec 16)  :
    cldType (h.extractLsb' 13 3) (cImmD h) (cHi h) (cLo h) = ciType (h.extractLsb' 13 3) (cImm6 h) (cRd h) 0b00#2 := by
  apply BitVec.eq_of_getLsbD_eq; intro i hi
  simp only [cldType, ciType, cImm6, cRd, cImmD, cHi, cLo, BitVec.getLsbD_append, BitVec.getLsbD_extractLsb']
  interval_cases i <;> simp

theorem caType_fields (h : BitVec 16)  :
    caType (h.extractLsb' 10 6) (cHi h) (h.extractLsb' 5 2) (cLo h) = ciType (h.extractLsb' 13 3) (cImm6 h) (cRd h) 0b01#2 := by
  apply BitVec.eq_of_getLsbD_eq; intro i hi
  simp only [caType, ciType, cImm6, cRd, cHi, cLo, BitVec.getLsbD_append, BitVec.getLsbD_extractLsb']
  interval_cases i <;> simp

theorem cjType_fields (h : BitVec 16)  :
    cjType (h.extractLsb' 13 3) (cImmJ h) = ciType (h.extractLsb' 13 3) (cImm6 h) (cRd h) 0b01#2 := by
  apply BitVec.eq_of_getLsbD_eq; intro i hi
  simp only [cjType, ciType, cImm6, cRd, cImmJ, BitVec.getLsbD_append, BitVec.getLsbD_extractLsb']
  interval_cases i <;> simp

theorem cbType_fields (h : BitVec 16)  :
    cbType (h.extractLsb' 13 3) (cImmB h) (cHi h) = ciType (h.extractLsb' 13 3) (cImm6 h) (cRd h) 0b01#2 := by
  apply BitVec.eq_of_getLsbD_eq; intro i hi
  simp only [cbType, ciType, cImm6, cRd, cImmB, cHi, BitVec.getLsbD_append, BitVec.getLsbD_extractLsb']
  interval_cases i <;> simp

theorem crType_fields (h : BitVec 16)  :
    crType (h.extractLsb' 12 4) (cRd h) (cRs2 h) = ciType (h.extractLsb' 13 3) (cImm6 h) (cRd h) 0b10#2 := by
  apply BitVec.eq_of_getLsbD_eq; intro i hi
  simp only [crType, ciType, cImm6, cRd, cRs2, BitVec.getLsbD_append, BitVec.getLsbD_extractLsb']
  interval_cases i <;> simp

/-! ### ciwType -/

@[simp] theorem cid_ciwType (nzuimm : BitVec 8) (rd : CRegIdx) :
    cid (ciwType nzuimm rd) = 0#5 := by
  apply BitVec.eq_of_getLsbD_eq; intro i hi
  simp only [cid, ciwType, BitVec.getLsbD_append, BitVec.getLsbD_extractLsb']
  interval_cases i <;> simp

@[simp] theorem cLo_ciwType (nzuimm : BitVec 8) (rd : CRegIdx) :
    cLo (ciwType nzuimm rd) = rd := by
  apply BitVec.eq_of_getLsbD_eq; intro i hi
  simp only [cLo, ciwType, BitVec.getLsbD_append, BitVec.getLsbD_extractLsb']
  interval_cases i <;> simp

@[simp] theorem cImm4spn_ciwType (nzuimm : BitVec 8) (rd : CRegIdx) :
    cImm4spn (ciwType nzuimm rd) = nzuimm := by
  apply BitVec.eq_of_getLsbD_eq; intro i hi
  simp only [cImm4spn, ciwType, BitVec.getLsbD_append, BitVec.getLsbD_extractLsb']
  interval_cases i <;> simp

theorem ciwType_fields (h : BitVec 16) :
    ciwType (cImm4spn h) (cLo h) = ciType 0b000#3 (cImm6 h) (cRd h) 0b00#2 := by
  apply BitVec.eq_of_getLsbD_eq; intro i hi
  simp only [ciwType, ciType, cImm6, cRd, cImm4spn, cLo, BitVec.getLsbD_append, BitVec.getLsbD_extractLsb']
  interval_cases i <;> simp

/-! ### ci16spType -/

@[simp] theorem cid_ci16spType (nzimm : BitVec 6) :
    cid (ci16spType nzimm) = 13#5 := by
  apply BitVec.eq_of_getLsbD_eq; intro i hi
  simp only [cid, ci16spType, BitVec.getLsbD_append, BitVec.getLsbD_extractLsb']
  interval_cases i <;> simp

@[simp] theorem cRd_ci16spType (nzimm : BitVec 6) :
    cRd (ci16spType nzimm) = 2 := by
  apply BitVec.eq_of_getLsbD_eq; intro i hi
  simp only [cRd, ci16spType, BitVec.getLsbD_append, BitVec.getLsbD_extractLsb']
  interval_cases i <;> simp

@[simp] theorem cImm16sp_ci16spType (nzimm : BitVec 6) :
    cImm16sp (ci16spType nzimm) = nzimm := by
  apply BitVec.eq_of_getLsbD_eq; intro i hi
  simp only [cImm16sp, ci16spType, BitVec.getLsbD_append, BitVec.getLsbD_extractLsb']
  interval_cases i <;> simp

theorem ci16spType_fields (h : BitVec 16) :
    ci16spType (cImm16sp h) = ciType 0b011#3 (cImm6 h) 2 0b01#2 := by
  apply BitVec.eq_of_getLsbD_eq; intro i hi
  simp only [ci16spType, ciType, cImm6, cImm16sp, BitVec.getLsbD_append, BitVec.getLsbD_extractLsb']
  interval_cases i <;> simp

/-! ### clwspType -/

@[simp] theorem cid_clwspType (uimm : BitVec 6) (rd : RegIdx) :
    cid (clwspType uimm rd) = 10#5 := by
  apply BitVec.eq_of_getLsbD_eq; intro i hi
  simp only [cid, clwspType, BitVec.getLsbD_append, BitVec.getLsbD_extractLsb']
  interval_cases i <;> simp

@[simp] theorem cRd_clwspType (uimm : BitVec 6) (rd : RegIdx) :
    cRd (clwspType uimm rd) = rd := by
  apply BitVec.eq_of_getLsbD_eq; intro i hi
  simp only [cRd, clwspType, BitVec.getLsbD_append, BitVec.getLsbD_extractLsb']
  interval_cases i <;> simp

@[simp] theorem cImmLwsp_clwspType (uimm : BitVec 6) (rd : RegIdx) :
    cImmLwsp (clwspType uimm rd) = uimm := by
  apply BitVec.eq_of_getLsbD_eq; intro i hi
  simp only [cImmLwsp, clwspType, BitVec.getLsbD_append, BitVec.getLsbD_extractLsb']
  interval_cases i <;> simp

theorem clwspType_fields (h : BitVec 16) :
    clwspType (cImmLwsp h) (cRd h) = ciType 0b010#3 (cImm6 h) (cRd h) 0b10#2 := by
  apply BitVec.eq_of_getLsbD_eq; intro i hi
  simp only [clwspType, ciType, cImm6, cRd, cImmLwsp, BitVec.getLsbD_append, BitVec.getLsbD_extractLsb']
  interval_cases i <;> simp

/-! ### cldspType -/

@[simp] theorem cid_cldspType (uimm : BitVec 6) (rd : RegIdx) :
    cid (cldspType uimm rd) = 14#5 := by
  apply BitVec.eq_of_getLsbD_eq; intro i hi
  simp only [cid, cldspType, BitVec.getLsbD_append, BitVec.getLsbD_extractLsb']
  interval_cases i <;> simp

@[simp] theorem cRd_cldspType (uimm : BitVec 6) (rd : RegIdx) :
    cRd (cldspType uimm rd) = rd := by
  apply BitVec.eq_of_getLsbD_eq; intro i hi
  simp only [cRd, cldspType, BitVec.getLsbD_append, BitVec.getLsbD_extractLsb']
  interval_cases i <;> simp

@[simp] theorem cImmLdsp_cldspType (uimm : BitVec 6) (rd : RegIdx) :
    cImmLdsp (cldspType uimm rd) = uimm := by
  apply BitVec.eq_of_getLsbD_eq; intro i hi
  simp only [cImmLdsp, cldspType, BitVec.getLsbD_append, BitVec.getLsbD_extractLsb']
  interval_cases i <;> simp

theorem cldspType_fields (h : BitVec 16) :
    cldspType (cImmLdsp h) (cRd h) = ciType 0b011#3 (cImm6 h) (cRd h) 0b10#2 := by
  apply BitVec.eq_of_getLsbD_eq; intro i hi
  simp only [cldspType, ciType, cImm6, cRd, cImmLdsp, BitVec.getLsbD_append, BitVec.getLsbD_extractLsb']
  interval_cases i <;> simp

/-! ### cswspType -/

@[simp] theorem cid_cswspType (uimm : BitVec 6) (rs2 : RegIdx) :
    cid (cswspType uimm rs2) = 26#5 := by
  apply BitVec.eq_of_getLsbD_eq; intro i hi
  simp only [cid, cswspType, BitVec.getLsbD_append, BitVec.getLsbD_extractLsb']
  interval_cases i <;> simp

@[simp] theorem cRs2_cswspType (uimm : BitVec 6) (rs2 : RegIdx) :
    cRs2 (cswspType uimm rs2) = rs2 := by
  apply BitVec.eq_of_getLsbD_eq; intro i hi
  simp only [cRs2, cswspType, BitVec.getLsbD_append, BitVec.getLsbD_extractLsb']
  interval_cases i <;> simp

@[simp] theorem cImmSwsp_cswspType (uimm : BitVec 6) (rs2 : RegIdx) :
    cImmSwsp (cswspType uimm rs2) = uimm := by
  apply BitVec.eq_of_getLsbD_eq; intro i hi
  simp only [cImmSwsp, cswspType, BitVec.getLsbD_append, BitVec.getLsbD_extractLsb']
  interval_cases i <;> simp

theorem cswspType_fields (h : BitVec 16) :
    cswspType (cImmSwsp h) (cRs2 h) = ciType 0b110#3 (cImm6 h) (cRd h) 0b10#2 := by
  apply BitVec.eq_of_getLsbD_eq; intro i hi
  simp only [cswspType, ciType, cImm6, cRd, cImmSwsp, cRs2, BitVec.getLsbD_append, BitVec.getLsbD_extractLsb']
  interval_cases i <;> simp

/-! ### csdspType -/

@[simp] theorem cid_csdspType (uimm : BitVec 6) (rs2 : RegIdx) :
    cid (csdspType uimm rs2) = 30#5 := by
  apply BitVec.eq_of_getLsbD_eq; intro i hi
  simp only [cid, csdspType, BitVec.getLsbD_append, BitVec.getLsbD_extractLsb']
  interval_cases i <;> simp

@[simp] theorem cRs2_csdspType (uimm : BitVec 6) (rs2 : RegIdx) :
    cRs2 (csdspType uimm rs2) = rs2 := by
  apply BitVec.eq_of_getLsbD_eq; intro i hi
  simp only [cRs2, csdspType, BitVec.getLsbD_append, BitVec.getLsbD_extractLsb']
  interval_cases i <;> simp

@[simp] theorem cImmSdsp_csdspType (uimm : BitVec 6) (rs2 : RegIdx) :
    cImmSdsp (csdspType uimm rs2) = uimm := by
  apply BitVec.eq_of_getLsbD_eq; intro i hi
  simp only [cImmSdsp, csdspType, BitVec.getLsbD_append, BitVec.getLsbD_extractLsb']
  interval_cases i <;> simp

theorem csdspType_fields (h : BitVec 16) :
    csdspType (cImmSdsp h) (cRs2 h) = ciType 0b111#3 (cImm6 h) (cRd h) 0b10#2 := by
  apply BitVec.eq_of_getLsbD_eq; intro i hi
  simp only [csdspType, ciType, cImm6, cRd, cImmSdsp, cRs2, BitVec.getLsbD_append, BitVec.getLsbD_extractLsb']
  interval_cases i <;> simp

end Sys2Proof
end

