-- ==== Sys2Proof/Laws/Results.lean ====
section
/-! SUPPORT. Register results as numbers: each function of the computational instructions on n-bit values, and what the ends of an
instruction do with a result modulo 2^XLEN. -/

namespace Sys2Proof

/-! ### From n bits to a word -/

theorem ofInt_congr {n : Nat} {a b : Int} (h : a % (2 : Int) ^ n = b % (2 : Int) ^ n) : BitVec.ofInt n a = BitVec.ofInt n b := by
  rw [BitVec.toNat_eq, BitVec.toNat_ofInt, BitVec.toNat_ofInt]
  have : ((2 ^ n : Nat) : Int) = (2 : Int) ^ n := by norm_cast
  rw [this, h]

theorem ofInt_toNat {n : Nat} (v : BitVec n) : BitVec.ofInt n v.toNat = v := by simp

theorem ofInt_toInt {n : Nat} (v : BitVec n) : BitVec.ofInt n v.toInt = v := BitVec.ofInt_toInt

/-- A width-XLEN function of words is the number that the n-bit function gives, modulo 2^XLEN. -/
theorem Xlen.lift_eq (x : Xlen) (f : BinOp) (a b : Word) (v : Int)
    (h : ∀ A B : BitVec x.bits, A.toNat = a.toNat % 2 ^ x.bits → B.toNat = b.toNat % 2 ^ x.bits →
      f x.bits A B = BitVec.ofInt x.bits v) :
    x.lift f a b = x.trunc (BitVec.ofInt 64 v) := by
  cases x
  · have := h (a.setWidth 32) (b.setWidth 32) (by simp [Xlen.bits]) (by simp [Xlen.bits])
    rw [Xlen.lift_rv32]
    simp only [Xlen.bits] at this
    rw [this, Xlen.trunc]
    congr 1
    rw [BitVec.toNat_eq, BitVec.toNat_setWidth, BitVec.toNat_ofInt, BitVec.toNat_ofInt]
    omega
  · have := h a b (by simp [Xlen.bits, Nat.mod_eq_of_lt a.isLt]) (by simp [Xlen.bits, Nat.mod_eq_of_lt b.isLt])
    exact this

/-! ### The functions, on n bits -/

theorem Alu.add_eq (n : Nat) (a b : BitVec n) : Alu.add n a b = BitVec.ofInt n (a.toNat + b.toNat) := by
  rw [BitVec.ofInt_add, ofInt_toNat, ofInt_toNat]; rfl

theorem Alu.sub_eq (n : Nat) (a b : BitVec n) : Alu.sub n a b = BitVec.ofInt n (a.toNat - b.toNat) := by
  have h : ((2 ^ n : Nat) : Int) = (2 : Int) ^ n := by norm_cast
  have ha := a.isLt
  have hb := b.isLt
  show a - b = _
  rw [BitVec.toNat_eq, BitVec.toNat_sub, BitVec.toNat_ofInt]
  have e : ((2 ^ n - b.toNat + a.toNat : Nat) : Int) = (a.toNat : Int) - b.toNat + (2 ^ n : Nat) := by omega
  have : (((2 ^ n - b.toNat + a.toNat) % 2 ^ n : Nat) : Int) = ((a.toNat : Int) - b.toNat) % (2 ^ n : Nat) := by
    rw [Int.natCast_emod, e, Int.add_emod_right]
  omega

theorem Alu.and_eq (n : Nat) (a b : BitVec n) : Alu.and n a b = BitVec.ofInt n (a.toNat &&& b.toNat : Nat) := by
  rw [← BitVec.toNat_and, ofInt_toNat]; rfl

theorem Alu.or_eq (n : Nat) (a b : BitVec n) : Alu.or n a b = BitVec.ofInt n (a.toNat ||| b.toNat : Nat) := by
  rw [← BitVec.toNat_or, ofInt_toNat]; rfl

theorem Alu.xor_eq (n : Nat) (a b : BitVec n) : Alu.xor n a b = BitVec.ofInt n (a.toNat ^^^ b.toNat : Nat) := by
  rw [← BitVec.toNat_xor, ofInt_toNat]; rfl

theorem Alu.sll_eq (n : Nat) (a b : BitVec n) :
    Alu.sll n a b = BitVec.ofInt n (a.toNat * 2 ^ (b.toNat % n) : Nat) := by
  show a <<< (b.toNat % n) = _
  rw [BitVec.toNat_eq, BitVec.toNat_shiftLeft, Nat.shiftLeft_eq, BitVec.ofInt_natCast, BitVec.toNat_ofNat]

theorem Alu.srl_eq (n : Nat) (a b : BitVec n) :
    Alu.srl n a b = BitVec.ofInt n (a.toNat / 2 ^ (b.toNat % n) : Nat) := by
  show a >>> (b.toNat % n) = _
  rw [BitVec.toNat_eq, BitVec.toNat_ushiftRight, Nat.shiftRight_eq_div_pow, BitVec.ofInt_natCast, BitVec.toNat_ofNat]
  exact (Nat.mod_eq_of_lt (Nat.lt_of_le_of_lt (Nat.div_le_self _ _) a.isLt)).symm

theorem Alu.sra_eq (n : Nat) (a b : BitVec n) :
    Alu.sra n a b = BitVec.ofInt n (a.toInt / 2 ^ (b.toNat % n)) := by
  show a.sshiftRight (b.toNat % n) = _
  rw [BitVec.sshiftRight, Int.shiftRight_eq_div_pow]
  norm_cast

theorem Alu.mul_eq (n : Nat) (a b : BitVec n) : Alu.mul n a b = BitVec.ofInt n (a.toNat * b.toNat) := by
  have : (a.toNat : Int) * b.toNat = (a.toNat * b.toNat : Nat) := by norm_cast
  rw [this, BitVec.ofInt_natCast]; rfl

theorem Alu.mulh_eq (n : Nat) (a b : BitVec n) : Alu.mulh n a b = BitVec.ofInt n (a.toInt * b.toInt / 2 ^ n) := rfl

theorem Alu.mulhsu_eq (n : Nat) (a b : BitVec n) : Alu.mulhsu n a b = BitVec.ofInt n (a.toInt * b.toNat / 2 ^ n) := rfl

theorem Alu.mulhu_eq (n : Nat) (a b : BitVec n) : Alu.mulhu n a b = BitVec.ofInt n (a.toNat * b.toNat / 2 ^ n : Nat) := by
  rw [BitVec.ofInt_natCast]; rfl

/-- The signed reading of n bits, from the unsigned one. -/
theorem toInt_eq_bmod {n : Nat} (v : BitVec n) : v.toInt = Int.bmod v.toNat (2 ^ n) := BitVec.toInt_eq_toNat_bmod v

/-! ### Scaled immediates -/

theorem uimm4_toNat {n : Nat} (h : n ≤ 62) (v : BitVec n) : (uimm4 v).toNat = v.toNat * 4 := by
  have hv := v.isLt
  have : (2 : Nat) ^ n ≤ 2 ^ 62 := Nat.pow_le_pow_right (by decide) h
  rw [uimm4, zext, BitVec.toNat_setWidth, BitVec.toNat_append, Nat.shiftLeft_eq]
  simp only [BitVec.toNat_ofNat, Nat.zero_mod, Nat.or_zero]
  omega

theorem uimm8_toNat {n : Nat} (h : n ≤ 61) (v : BitVec n) : (uimm8 v).toNat = v.toNat * 8 := by
  have hv := v.isLt
  have : (2 : Nat) ^ n ≤ 2 ^ 61 := Nat.pow_le_pow_right (by decide) h
  rw [uimm8, zext, BitVec.toNat_setWidth, BitVec.toNat_append, Nat.shiftLeft_eq]
  simp only [BitVec.toNat_ofNat, Nat.zero_mod, Nat.or_zero]
  omega

/-! ### Comparisons -/

theorem Cond.eq_iff (x : Xlen) (a b : Word) : Cond.eq x a b = decide (a.toNat % 2 ^ x.bits = b.toNat % 2 ^ x.bits) := by
  have : (x.trunc a = x.trunc b) ↔ (a.toNat % 2 ^ x.bits = b.toNat % 2 ^ x.bits) := by
    rw [BitVec.toNat_eq, Xlen.trunc_toNat, Xlen.trunc_toNat]
  rw [Cond.eq, Bool.eq_iff_iff]; simp [this]

theorem Cond.ltu_iff (x : Xlen) (a b : Word) : Cond.ltu x a b = decide (a.toNat % 2 ^ x.bits < b.toNat % 2 ^ x.bits) := by
  rw [Cond.ltu, Xlen.u_eq, Xlen.u_eq]

theorem Cond.lt_iff (x : Xlen) (a b : Word) : Cond.lt x a b =
    decide (Int.bmod (a.toNat % 2 ^ x.bits : Nat) (2 ^ x.bits) < Int.bmod (b.toNat % 2 ^ x.bits : Nat) (2 ^ x.bits)) := by
  rw [Cond.lt, Xlen.s_eq, Xlen.s_eq]

namespace Machine

/-! ### Ends of an instruction -/

theorem writeBack_eq (rd : RegIdx) (v : Word) (len : Nat) (s : State) :
    writeBack rd v len s = .next { s with
      regs := if rd = 0 then s.regs else s.regs.set rd.toNat (s.cfg.xlen.trunc v) rd.isLt
      pc := s.cfg.xlen.trunc (s.pc + BitVec.ofNat 64 len) } := by
  unfold writeBack State.setX State.advance State.pcPlus State.setPc
  split <;> simp

theorem noEffect_eq (len : Nat) (s : State) :
    noEffect len s = .next { s with pc := s.cfg.xlen.trunc (s.pc + BitVec.ofNat 64 len) } := by
  simp [noEffect, State.advance, State.pcPlus, State.setPc]

theorem jumpLink_eq (rd : RegIdx) (t : Word) (len : Nat) (s : State) :
    jumpLink rd t len s = .next { s with
      regs := if rd = 0 then s.regs else s.regs.set rd.toNat (s.cfg.xlen.trunc (s.pc + BitVec.ofNat 64 len)) rd.isLt
      pc := s.cfg.xlen.trunc t } := by
  unfold jumpLink State.setX State.pcPlus State.setPc
  split <;> simp

end Machine

end Sys2Proof
end

