-- ==== Sys2Proof/Laws/Trap.lean ====
section
/-! SUPPORT. What a trap entry writes: the saved registers, the status bits, the target, and the paging flag with the TLB. -/

namespace Sys2Proof.Machine

/-- The code of a privilege in two bits (R36). -/
theorem Priv.code_bits (p : Priv) : (BitVec.ofNat 2 p.code).getLsbD 0 = decide (p ≠ .user) ∧
    (BitVec.ofNat 2 p.code).getLsbD 1 = decide (p = .machine) := by cases p <;> decide

/-! ### Entry to M -/

/-- CSR values after entry to M. -/
theorem enterM_csrAt (cv tval : Word) (i : Option Nat) (s : State) (k : Nat) : (enterM cv tval i s).csrAt k =
    if k = kMstatus then s.cfg.xlen.trunc (setField (setBit (setBit (s.csrAt kMstatus) bMpie ((s.csrAt kMstatus).getLsbD bMie)) bMie false)
      bMpp (BitVec.ofNat 2 s.priv.code))
    else if k = kMtval then s.cfg.xlen.trunc tval
    else if k = kMcause then s.cfg.xlen.trunc cv
    else if k = kMepc then s.cfg.xlen.trunc s.pc
    else s.csrAt k := by
  simp only [enterM, State.csrAt_setPc, State.csrAt_setPriv, State.csrAt_setCsr, State.setCsr_cfg]

/-- mstatus after entry to M (R921). -/
theorem enterM_mstatus (cv tval : Word) (i : Option Nat) (s : State) (j : Nat) (hj : j < s.cfg.xlen.bits) :
    (enterM cv tval i s).mstatusBit j =
      if j = 7 then s.mstatusBit 3
      else if j = 3 then false
      else if j = 11 then decide (s.priv ≠ .user)
      else if j = 12 then decide (s.priv = .machine)
      else s.mstatusBit j := by
  have h64 : j < 64 := Nat.lt_of_lt_of_le hj s.cfg.xlen.bits_le
  rw [State.mstatusBit, enterM_csrAt, if_pos rfl, Xlen.trunc_getLsbD, getLsbD_setField _ _ _ _ h64,
    getLsbD_setBit _ _ _ _ h64, getLsbD_setBit _ _ _ _ h64]
  have e1 : bMpp = 11 := rfl
  have e2 : bMie = 3 := rfl
  have e3 : bMpie = 7 := rfl
  simp only [hj, decide_true, Bool.true_and, State.mstatusBit]
  by_cases hf : bMpp ≤ j ∧ j < bMpp + 2
  · rw [if_pos hf]
    have : j = 11 ∨ j = 12 := by omega
    rcases this with rfl | rfl
    · exact (Priv.code_bits s.priv).1
    · exact (Priv.code_bits s.priv).2
  · rw [if_neg hf, if_neg (by omega : ¬ j = 11), if_neg (by omega : ¬ j = 12)]
    by_cases h3 : j = 3
    · subst h3; rfl
    · by_cases h7 : j = 7
      · subst h7; rfl
      · rw [if_neg (by omega : ¬ j = bMie), if_neg (by omega : ¬ j = bMpie), if_neg h7, if_neg h3]

theorem enterM_pc (cv tval : Word) (i : Option Nat) (s : State) :
    (enterM cv tval i s).pc = s.cfg.xlen.trunc (trapTarget (s.csrAt kMtvec) i) := by
  simp only [enterM, State.setPc_pc, State.setPriv_cfg, State.setCsr_cfg]

theorem enterM_tlb (cv tval : Word) (i : Option Nat) (s : State) :
    (enterM cv tval i s).tlb = if pagingOf .machine s.ptMode = s.paging then s.tlb else [] := by
  simp only [enterM, State.setPc_tlb, setPriv_tlb, State.setCsr_ptMode, State.setCsr_paging, State.setCsr_tlb]
  rfl

/-! ### Entry to S -/

/-- CSR values after entry to S. -/
theorem enterS_csrAt (cv tval : Word) (i : Option Nat) (s : State) (k : Nat) : (enterS cv tval i s).csrAt k =
    if k = kMstatus then s.cfg.xlen.trunc (setBit (setBit (setBit (s.csrAt kMstatus) bSpie ((s.csrAt kMstatus).getLsbD bSie)) bSie false)
      bSpp (s.priv = .supervisor))
    else if k = kStval then s.cfg.xlen.trunc tval
    else if k = kScause then s.cfg.xlen.trunc cv
    else if k = kSepc then s.cfg.xlen.trunc s.pc
    else s.csrAt k := by
  simp only [enterS, State.csrAt_setPc, State.csrAt_setPriv, State.csrAt_setCsr, State.setCsr_cfg]

/-- mstatus after entry to S (R921). -/
theorem enterS_mstatus (cv tval : Word) (i : Option Nat) (s : State) (j : Nat) (hj : j < s.cfg.xlen.bits) :
    (enterS cv tval i s).mstatusBit j =
      if j = 5 then s.mstatusBit 1
      else if j = 1 then false
      else if j = 8 then decide (s.priv = .supervisor)
      else s.mstatusBit j := by
  have h64 : j < 64 := Nat.lt_of_lt_of_le hj s.cfg.xlen.bits_le
  rw [State.mstatusBit, enterS_csrAt, if_pos rfl, Xlen.trunc_getLsbD, getLsbD_setBit _ _ _ _ h64,
    getLsbD_setBit _ _ _ _ h64, getLsbD_setBit _ _ _ _ h64]
  have e1 : bSpp = 8 := rfl
  have e2 : bSie = 1 := rfl
  have e3 : bSpie = 5 := rfl
  simp only [hj, decide_true, Bool.true_and, State.mstatusBit]
  by_cases h8 : j = 8
  · subst h8; rfl
  · by_cases h1 : j = 1
    · subst h1; rfl
    · by_cases h5 : j = 5
      · subst h5; rfl
      · rw [if_neg (by omega : ¬ j = bSpp), if_neg (by omega : ¬ j = bSie), if_neg (by omega : ¬ j = bSpie), if_neg h5,
          if_neg h1, if_neg h8]

theorem enterS_pc (cv tval : Word) (i : Option Nat) (s : State) :
    (enterS cv tval i s).pc = s.cfg.xlen.trunc (trapTarget (s.csrAt kStvec) i) := by
  simp only [enterS, State.setPc_pc, State.setPriv_cfg, State.setCsr_cfg]

theorem enterS_tlb (cv tval : Word) (i : Option Nat) (s : State) :
    (enterS cv tval i s).tlb = if pagingOf .supervisor s.ptMode = s.paging then s.tlb else [] := by
  simp only [enterS, State.setPc_tlb, setPriv_tlb, State.setCsr_ptMode, State.setCsr_paging, State.setCsr_tlb]
  rfl

end Sys2Proof.Machine
end

