-- ==== Sys2Proof/Tests/Slice0.lean ====
section
/-! SUPPORT. The model's own tests: the well-formedness smoke test, every constructor's decoding, one-step tests with the results
of 95_test_vectors.md, and a witness for the hypotheses of every statement. -/

namespace Sys2Proof.Tests

set_option Elab.async false

open Sys2Proof Sys2Proof.Machine Sys2Proof.Spec

/-! ### Well-formedness: an ill-formed term for each check, refused -/

/-- A 64-bit instruction on a 32-bit hart (R340). -/
theorem test_wf_refuses_rv64_only : (Instr.addiw 1 2 3).wf .rv32 = false ∧ (Instr.addiw 1 2 3).wf .rv64 = true := by decide

/-- C.JAL on a 64-bit hart (R758). -/
theorem test_wf_refuses_cJal_on_rv64 : (Instr.cJal 1).wf .rv64 = false ∧ (Instr.cJal 1).wf .rv32 = true := by decide

/-- A shift amount of 32 or more on a 32-bit hart (R315, R323). -/
theorem test_wf_refuses_long_shifts :
    (Instr.slli 1 2 32).wf .rv32 = false ∧ (Instr.srli 1 2 32).wf .rv32 = false ∧ (Instr.srai 1 2 32).wf .rv32 = false ∧
    (Instr.cSrli 1 32).wf .rv32 = false ∧ (Instr.cSrai 1 32).wf .rv32 = false ∧ (Instr.cSlli 1 32).wf .rv32 = false ∧
    (Instr.slli 1 2 31).wf .rv32 = true ∧ (Instr.cSlli 1 63).wf .rv64 = true := by decide

/-- A zero immediate that the row forbids (R345, R751, R761, R762). -/
theorem test_wf_refuses_zero_immediates :
    (Instr.cAddi4spn 1 0).wf .rv64 = false ∧ (Instr.cAddi16sp 0).wf .rv64 = false ∧ (Instr.cLui 1 0).wf .rv64 = false := by decide

/-- A register field that the row forbids (R757, R759, R762, R776-R779, R781, R782). -/
theorem test_wf_refuses_reserved_registers :
    (Instr.cAddi 0 1).wf .rv64 = false ∧ (Instr.cAddiw 0 1).wf .rv64 = false ∧ (Instr.cLui 2 1).wf .rv64 = false ∧
    (Instr.cLwsp 0 1).wf .rv64 = false ∧ (Instr.cLdsp 0 1).wf .rv64 = false ∧ (Instr.cJr 0).wf .rv64 = false ∧
    (Instr.cJalr 0).wf .rv64 = false ∧ (Instr.cMv 1 0).wf .rv64 = false ∧ (Instr.cAdd 1 0).wf .rv64 = false := by decide

/-! ### Decoding: a word of every constructor, written out from R305 and R321 and the opcode table's fixed bits -/

theorem test_decode_integer_immediate :
    decode .rv64 (.full 0b11111010011001110101001010110111#32) = .ok (.lui 5 0xfa675) ∧
    decode .rv64 (.full 0b10010100011100000011001010010111#32) = .ok (.auipc 5 0x94703) ∧
    decode .rv64 (.full 0b10001001101100110000001010010011#32) = .ok (.addi 5 6 0x89b) ∧
    decode .rv64 (.full 0b11010001000100110010001010010011#32) = .ok (.slti 5 6 0xd11) ∧
    decode .rv64 (.full 0b11011110011100110011001010010011#32) = .ok (.sltiu 5 6 0xde7) ∧
    decode .rv64 (.full 0b10101011000100110100001010010011#32) = .ok (.xori 5 6 0xab1) ∧
    decode .rv64 (.full 0b11000000101100110110001010010011#32) = .ok (.ori 5 6 0xc0b) ∧
    decode .rv64 (.full 0b10101010001100110111001010010011#32) = .ok (.andi 5 6 0xaa3) ∧
    decode .rv64 (.full 0b00000011100100110001001010010011#32) = .ok (.slli 5 6 0x39) ∧
    decode .rv64 (.full 0b00000010000100110101001010010011#32) = .ok (.srli 5 6 0x21) ∧
    decode .rv64 (.full 0b01000011011100110101001010010011#32) = .ok (.srai 5 6 0x37) := by
  decide +kernel

theorem test_decode_integer_register :
    decode .rv64 (.full 0b00000000011100110000001010110011#32) = .ok (.add 5 6 7) ∧
    decode .rv64 (.full 0b01000000011100110000001010110011#32) = .ok (.sub 5 6 7) ∧
    decode .rv64 (.full 0b00000000011100110001001010110011#32) = .ok (.sll 5 6 7) ∧
    decode .rv64 (.full 0b00000000011100110010001010110011#32) = .ok (.slt 5 6 7) ∧
    decode .rv64 (.full 0b00000000011100110011001010110011#32) = .ok (.sltu 5 6 7) ∧
    decode .rv64 (.full 0b00000000011100110100001010110011#32) = .ok (.xor 5 6 7) ∧
    decode .rv64 (.full 0b00000000011100110101001010110011#32) = .ok (.srl 5 6 7) ∧
    decode .rv64 (.full 0b01000000011100110101001010110011#32) = .ok (.sra 5 6 7) ∧
    decode .rv64 (.full 0b00000000011100110110001010110011#32) = .ok (.or 5 6 7) ∧
    decode .rv64 (.full 0b00000000011100110111001010110011#32) = .ok (.and 5 6 7) := by
  decide +kernel

theorem test_decode_integer_word :
    decode .rv64 (.full 0b11000100000100110000001010011011#32) = .ok (.addiw 5 6 0xc41) ∧
    decode .rv64 (.full 0b00000001000100110001001010011011#32) = .ok (.slliw 5 6 0x11) ∧
    decode .rv64 (.full 0b00000001101100110101001010011011#32) = .ok (.srliw 5 6 0x1b) ∧
    decode .rv64 (.full 0b01000001110100110101001010011011#32) = .ok (.sraiw 5 6 0x1d) ∧
    decode .rv64 (.full 0b00000000011100110000001010111011#32) = .ok (.addw 5 6 7) ∧
    decode .rv64 (.full 0b01000000011100110000001010111011#32) = .ok (.subw 5 6 7) ∧
    decode .rv64 (.full 0b00000000011100110001001010111011#32) = .ok (.sllw 5 6 7) ∧
    decode .rv64 (.full 0b00000000011100110101001010111011#32) = .ok (.srlw 5 6 7) ∧
    decode .rv64 (.full 0b01000000011100110101001010111011#32) = .ok (.sraw 5 6 7) := by
  decide +kernel

theorem test_decode_control :
    decode .rv64 (.full 0b10011010001101110110001011101111#32) = .ok (.jal 5 0xbb4d1) ∧
    decode .rv64 (.full 0b11111100000100110000001011100111#32) = .ok (.jalr 5 6 0xfc1) ∧
    decode .rv64 (.full 0b10011100011100110000111101100011#32) = .ok (.beq 6 7 0x8ef) ∧
    decode .rv64 (.full 0b10101010011100110001111101100011#32) = .ok (.bne 6 7 0x95f) ∧
    decode .rv64 (.full 0b10001100011100110100110111100011#32) = .ok (.blt 6 7 0xc6d) ∧
    decode .rv64 (.full 0b11010000011100110101011111100011#32) = .ok (.bge 6 7 0xe87) ∧
    decode .rv64 (.full 0b11111010011100110110000101100011#32) = .ok (.bltu 6 7 0xbd1) ∧
    decode .rv64 (.full 0b10111100011100110111111101100011#32) = .ok (.bgeu 6 7 0x9ef) := by
  decide +kernel

theorem test_decode_loads_stores_fences :
    decode .rv64 (.full 0b10010001001100110000001010000011#32) = .ok (.lb 5 6 0x913) ∧
    decode .rv64 (.full 0b10001101010100110001001010000011#32) = .ok (.lh 5 6 0x8d5) ∧
    decode .rv64 (.full 0b10000011000100110010001010000011#32) = .ok (.lw 5 6 0x831) ∧
    decode .rv64 (.full 0b11110101011100110011001010000011#32) = .ok (.ld 5 6 0xf57) ∧
    decode .rv64 (.full 0b10000000111100110100001010000011#32) = .ok (.lbu 5 6 0x80f) ∧
    decode .rv64 (.full 0b10010001111100110101001010000011#32) = .ok (.lhu 5 6 0x91f) ∧
    decode .rv64 (.full 0b10001000110100110110001010000011#32) = .ok (.lwu 5 6 0x88d) ∧
    decode .rv64 (.full 0b11111000011100110000110110100011#32) = .ok (.sb 6 7 0xf9b) ∧
    decode .rv64 (.full 0b10011010011100110001001110100011#32) = .ok (.sh 6 7 0x9a7) ∧
    decode .rv64 (.full 0b11101100011100110010111010100011#32) = .ok (.sw 6 7 0xedd) ∧
    decode .rv64 (.full 0b11011100011100110011111110100011#32) = .ok (.sd 6 7 0xddf) ∧
    decode .rv64 (.full 0b10000101001100110000001010001111#32) = .ok (.fence 0x8 0x5 0x3 6 5) ∧
    decode .rv64 (.full 0b10001100001100110001001010001111#32) = .ok (.fenceI 0x8c3 6 5) := by
  decide +kernel

theorem test_decode_multiply_divide :
    decode .rv64 (.full 0b00000010011100110000001010110011#32) = .ok (.mul 5 6 7) ∧
    decode .rv64 (.full 0b00000010011100110001001010110011#32) = .ok (.mulh 5 6 7) ∧
    decode .rv64 (.full 0b00000010011100110010001010110011#32) = .ok (.mulhsu 5 6 7) ∧
    decode .rv64 (.full 0b00000010011100110011001010110011#32) = .ok (.mulhu 5 6 7) ∧
    decode .rv64 (.full 0b00000010011100110100001010110011#32) = .ok (.div 5 6 7) ∧
    decode .rv64 (.full 0b00000010011100110101001010110011#32) = .ok (.divu 5 6 7) ∧
    decode .rv64 (.full 0b00000010011100110110001010110011#32) = .ok (.rem 5 6 7) ∧
    decode .rv64 (.full 0b00000010011100110111001010110011#32) = .ok (.remu 5 6 7) ∧
    decode .rv64 (.full 0b00000010011100110000001010111011#32) = .ok (.mulw 5 6 7) ∧
    decode .rv64 (.full 0b00000010011100110100001010111011#32) = .ok (.divw 5 6 7) ∧
    decode .rv64 (.full 0b00000010011100110101001010111011#32) = .ok (.divuw 5 6 7) ∧
    decode .rv64 (.full 0b00000010011100110110001010111011#32) = .ok (.remw 5 6 7) ∧
    decode .rv64 (.full 0b00000010011100110111001010111011#32) = .ok (.remuw 5 6 7) := by
  decide +kernel

theorem test_decode_atomic_word :
    decode .rv64 (.full 0b00010100000000110010001010101111#32) = .ok (.lrW 5 6 true false) ∧
    decode .rv64 (.full 0b00011100011100110010001010101111#32) = .ok (.scW 5 6 7 true false) ∧
    decode .rv64 (.full 0b00001100011100110010001010101111#32) = .ok (.amoswapW 5 6 7 true false) ∧
    decode .rv64 (.full 0b00000100011100110010001010101111#32) = .ok (.amoaddW 5 6 7 true false) ∧
    decode .rv64 (.full 0b00100100011100110010001010101111#32) = .ok (.amoxorW 5 6 7 true false) ∧
    decode .rv64 (.full 0b01100100011100110010001010101111#32) = .ok (.amoandW 5 6 7 true false) ∧
    decode .rv64 (.full 0b01000100011100110010001010101111#32) = .ok (.amoorW 5 6 7 true false) ∧
    decode .rv64 (.full 0b10000100011100110010001010101111#32) = .ok (.amominW 5 6 7 true false) ∧
    decode .rv64 (.full 0b10100100011100110010001010101111#32) = .ok (.amomaxW 5 6 7 true false) ∧
    decode .rv64 (.full 0b11000100011100110010001010101111#32) = .ok (.amominuW 5 6 7 true false) ∧
    decode .rv64 (.full 0b11100100011100110010001010101111#32) = .ok (.amomaxuW 5 6 7 true false) := by
  decide +kernel

theorem test_decode_atomic_double :
    decode .rv64 (.full 0b00010010000000110011001010101111#32) = .ok (.lrD 5 6 false true) ∧
    decode .rv64 (.full 0b00011010011100110011001010101111#32) = .ok (.scD 5 6 7 false true) ∧
    decode .rv64 (.full 0b00001010011100110011001010101111#32) = .ok (.amoswapD 5 6 7 false true) ∧
    decode .rv64 (.full 0b00000010011100110011001010101111#32) = .ok (.amoaddD 5 6 7 false true) ∧
    decode .rv64 (.full 0b00100010011100110011001010101111#32) = .ok (.amoxorD 5 6 7 false true) ∧
    decode .rv64 (.full 0b01100010011100110011001010101111#32) = .ok (.amoandD 5 6 7 false true) ∧
    decode .rv64 (.full 0b01000010011100110011001010101111#32) = .ok (.amoorD 5 6 7 false true) ∧
    decode .rv64 (.full 0b10000010011100110011001010101111#32) = .ok (.amominD 5 6 7 false true) ∧
    decode .rv64 (.full 0b10100010011100110011001010101111#32) = .ok (.amomaxD 5 6 7 false true) ∧
    decode .rv64 (.full 0b11000010011100110011001010101111#32) = .ok (.amominuD 5 6 7 false true) ∧
    decode .rv64 (.full 0b11100010011100110011001010101111#32) = .ok (.amomaxuD 5 6 7 false true) := by
  decide +kernel

theorem test_decode_csr_system :
    decode .rv64 (.full 0b00110100000100110001001011110011#32) = .ok (.csrrw 5 6 0x341) ∧
    decode .rv64 (.full 0b00011000000000110010001011110011#32) = .ok (.csrrs 5 6 0x180) ∧
    decode .rv64 (.full 0b00011000000000110011001011110011#32) = .ok (.csrrc 5 6 0x180) ∧
    decode .rv64 (.full 0b00110100000110101101001011110011#32) = .ok (.csrrwi 5 0x15 0x341) ∧
    decode .rv64 (.full 0b00011000000011101110001011110011#32) = .ok (.csrrsi 5 0x1d 0x180) ∧
    decode .rv64 (.full 0b00011000000011001111001011110011#32) = .ok (.csrrci 5 0x19 0x180) ∧
    decode .rv64 (.full 0b00000000000000000000000001110011#32) = .ok .ecall ∧
    decode .rv64 (.full 0b00000000000100000000000001110011#32) = .ok .ebreak ∧
    decode .rv64 (.full 0b00110000001000000000000001110011#32) = .ok .mret ∧
    decode .rv64 (.full 0b00010000001000000000000001110011#32) = .ok .sret ∧
    decode .rv64 (.full 0b00010000010100000000000001110011#32) = .ok .wfi ∧
    decode .rv64 (.full 0b00010010011100110000000001110011#32) = .ok (.sfenceVma 6 7) := by
  decide +kernel

theorem test_decode_quadrant0 :
    decode .rv64 (.half 0b0000111011001100#16) = .ok (.cAddi4spn 3 0xd5) ∧
    decode .rv64 (.half 0b0101011101101100#16) = .ok (.cLw 3 6 0x1b) ∧
    decode .rv64 (.half 0b0110111101101100#16) = .ok (.cLd 3 6 0x1b) ∧
    decode .rv64 (.half 0b1100101101100100#16) = .ok (.cSw 6 1 0x15) ∧
    decode .rv64 (.half 0b1111011101000100#16) = .ok (.cSd 6 1 0x15) := by
  decide +kernel

theorem test_decode_quadrant1 :
    decode .rv64 (.half 0b0001000000110101#16) = .ok (.cNop 0x2d) ∧
    decode .rv64 (.half 0b0001101011011101#16) = .ok (.cAddi 21 0x37) ∧
    decode .rv32 (.half 0b0011111011001001#16) = .ok (.cJal 0x5e9) ∧
    decode .rv64 (.half 0b0011101010101101#16) = .ok (.cAddiw 21 0x2b) ∧
    decode .rv64 (.half 0b0101101010000101#16) = .ok (.cLi 21 0x21) ∧
    decode .rv64 (.half 0b0111000101011001#16) = .ok (.cAddi16sp 0x39) ∧
    decode .rv64 (.half 0b0111101011010101#16) = .ok (.cLui 21 0x35) ∧
    decode .rv64 (.half 0b1001000110001101#16) = .ok (.cSrli 3 0x23) ∧
    decode .rv64 (.half 0b1001010111110101#16) = .ok (.cSrai 3 0x3d) ∧
    decode .rv64 (.half 0b1001100111010101#16) = .ok (.cAndi 3 0x35) ∧
    decode .rv64 (.half 0b1000110110000101#16) = .ok (.cSub 3 1) ∧
    decode .rv64 (.half 0b1000110110100101#16) = .ok (.cXor 3 1) ∧
    decode .rv64 (.half 0b1000110111000101#16) = .ok (.cOr 3 1) ∧
    decode .rv64 (.half 0b1000110111100101#16) = .ok (.cAnd 3 1) ∧
    decode .rv64 (.half 0b1001110110000101#16) = .ok (.cSubw 3 1) ∧
    decode .rv64 (.half 0b1001110110100101#16) = .ok (.cAddw 3 1) ∧
    decode .rv64 (.half 0b1011101111011001#16) = .ok (.cJ 0x6eb) ∧
    decode .rv64 (.half 0b1101001101001001#16) = .ok (.cBeqz 6 0xc1) ∧
    decode .rv64 (.half 0b1111001101111101#16) = .ok (.cBnez 6 0xf3) := by
  decide +kernel

theorem test_decode_quadrant2 :
    decode .rv64 (.half 0b0001101010101110#16) = .ok (.cSlli 21 0x2b) ∧
    decode .rv64 (.half 0b0100101011011110#16) = .ok (.cLwsp 21 0x35) ∧
    decode .rv64 (.half 0b0111101010111110#16) = .ok (.cLdsp 21 0x3d) ∧
    decode .rv64 (.half 0b1000101100000010#16) = .ok (.cJr 22) ∧
    decode .rv64 (.half 0b1000101010110110#16) = .ok (.cMv 21 13) ∧
    decode .rv64 (.half 0b1001000000000010#16) = .ok .cEbreak ∧
    decode .rv64 (.half 0b1001101100000010#16) = .ok (.cJalr 22) ∧
    decode .rv64 (.half 0b1001101010110110#16) = .ok (.cAdd 21 13) ∧
    decode .rv64 (.half 0b1101111110110110#16) = .ok (.cSwsp 13 0x3f) ∧
    decode .rv64 (.half 0b1111011000110110#16) = .ok (.cSdsp 13 0x25) := by
  decide +kernel
/-- Words that the tables give no instruction raise IllegalInstruction with their own bits (95_test_vectors.md 2.1, 2.2, 2.9). -/
theorem test_decode_rejects :
    decode .rv64 (.full 0x0000000B) = .error .uninstalled ∧ decode .rv64 (.full 0x1010202F) = .error .secondLevel ∧
    decode .rv64 (.full 0x046283B3) = .error .secondLevel ∧ decode .rv32 (.full 0x02029393) = .error .secondLevel ∧
    decode .rv64 (.half 0x0000) = .error .reserved ∧ decode .rv32 (.half 0x6000) = .error .uninstalled ∧
    decode .rv64 (.half 0x9C41) = .error .reserved ∧ decode .rv64 (.full 0x00200073) = .error .secondLevel := by
  decide +kernel

/-! ### One step (95_test_vectors.md) -/

/-- The reset state with registers and privilege set. -/
def start (x : Xlen) (p : Priv) (regs : List (RegIdx × Word)) : State :=
  (regs.foldl (fun s r => s.setX r.1 r.2) (State.resetOf (Config.reference x) [])).setPriv p

/-- One number of the state after a step on the instruction `w`. -/
def after (s : State) (nbits w : Nat) (f : State → Nat) : Option Nat :=
  match step (s.withFetchWord nbits w) with
  | .next t => some (f t)
  | _ => none

/-- Register `r` after the step. -/
def regAfter (s : State) (nbits w : Nat) (r : RegIdx) : Option Nat := after s nbits w fun t => (t.x r).toNat

/-- The pc after the step. -/
def pcAfter (s : State) (nbits w : Nat) : Option Nat := after s nbits w fun t => t.pc.toNat

/-- The `n` bytes of RAM at `a` after the step. -/
def memAfter (s : State) (nbits w a n : Nat) : Option Nat := after s nbits w fun t => (Memory.readLE t.mem a n).toNat

/-- The CSR value with key `k` after the step. -/
def csrAfter (s : State) (nbits w k : Nat) : Option Nat := after s nbits w fun t => (t.csrAt k).toNat

/-- With an `n`-byte value in RAM. -/
def withMem (s : State) (a n : Nat) (v : Word) : State := { s with mem := Memory.writeLE s.mem a n v }

/-- With a CSR value. -/
def withCsr (s : State) (k : Nat) (v : Word) : State := s.setCsr k v

/-- x5 and x6. -/
def two (x : Xlen) (a b : Word) : State := start x .machine [(5, a), (6, b)]

-- 2.2
theorem test_addi_wraps : regAfter (two .rv64 0x7FFFFFFFFFFFFFFF 0) 32 0x00128313 6 = some 0x8000000000000000 := by
  decide +kernel
theorem test_slt_sltu : regAfter (two .rv64 0xFFFFFFFFFFFFFFFF 1) 32 0x0062A3B3 7 = some 1 ∧
    regAfter (two .rv64 0xFFFFFFFFFFFFFFFF 1) 32 0x0062B3B3 7 = some 0 := by decide +kernel
theorem test_sltiu_sign_extends : regAfter (two .rv64 5 0) 32 0xFFF2B393 7 = some 1 := by decide +kernel
theorem test_srai_srli : regAfter (two .rv64 0xFFFFFFFFFFFFFFFE 0) 32 0x43F2D393 7 = some 0xFFFFFFFFFFFFFFFF ∧
    regAfter (two .rv64 0xFFFFFFFFFFFFFFFE 0) 32 0x03F2D393 7 = some 1 := by decide +kernel
theorem test_sll_masks_its_amount : regAfter (two .rv64 3 0x41) 32 0x006293B3 7 = some 6 ∧
    regAfter (two .rv32 3 0x21) 32 0x006293B3 7 = some 6 := by decide +kernel
theorem test_addiw_sign_extends : regAfter (two .rv64 0x7FFFFFFF 0) 32 0x0012839B 7 = some 0xFFFFFFFF80000000 := by
  decide +kernel
theorem test_srliw_sraiw : regAfter (two .rv64 0xFFFFFFFF80000000 0) 32 0x0012D39B 7 = some 0x40000000 ∧
    regAfter (two .rv64 0xFFFFFFFF80000000 0) 32 0x4012D39B 7 = some 0xFFFFFFFFC0000000 := by decide +kernel
theorem test_lui_sign_extends : regAfter (two .rv64 0 0) 32 0xFFFFF3B7 7 = some 0xFFFFFFFFFFFFF000 := by decide +kernel
theorem test_auipc : regAfter (two .rv64 0 0) 32 0x00001397 7 = some 0x80001000 := by decide +kernel
theorem test_x0_discards : regAfter (two .rv64 0 0) 32 0x00500013 0 = some 0 := by decide +kernel
theorem test_xori_rv32 : regAfter (two .rv32 0x0F0F0F0F 0) 32 0xFFF2C393 7 = some 0xF0F0F0F0 := by decide +kernel
theorem test_sra_srl : regAfter (two .rv64 0x8000000000000000 0x7F) 32 0x4062D3B3 7 = some 0xFFFFFFFFFFFFFFFF ∧
    regAfter (two .rv64 0xFFFFFFFFFFFFFFFF 4) 32 0x0062D3B3 7 = some 0x0FFFFFFFFFFFFFFF := by decide +kernel
theorem test_subw_sraw : regAfter (two .rv64 0 1) 32 0x406003BB 7 = some 0xFFFFFFFFFFFFFFFF ∧
    regAfter (two .rv64 0x80000000 0x1F) 32 0x4062D3BB 7 = some 0xFFFFFFFFFFFFFFFF := by decide +kernel
-- 2.3
theorem test_jal_links : regAfter (two .rv64 0 0) 32 0x008000EF 1 = some 0x80000004 ∧
    pcAfter (two .rv64 0 0) 32 0x008000EF = some 0x80000008 := by decide +kernel
theorem test_jalr_reads_the_old_register :
    regAfter (start .rv64 .machine [(1, 0x80000008)]) 32 0x001080E7 1 = some 0x80000004 ∧
    pcAfter (start .rv64 .machine [(1, 0x80000008)]) 32 0x001080E7 = some 0x80000008 := by decide +kernel
theorem test_blt_bltu : pcAfter (two .rv64 0xFFFFFFFFFFFFFFFF 1) 32 0x0062C463 = some 0x80000008 ∧
    pcAfter (two .rv64 0xFFFFFFFFFFFFFFFF 1) 32 0x0062E463 = some 0x80000004 := by decide +kernel
theorem test_bge_bgeu_bne : pcAfter (two .rv64 5 5) 32 0x0062D463 = some 0x80000008 ∧
    pcAfter (two .rv64 0xFFFFFFFFFFFFFFFF 1) 32 0x0062F463 = some 0x80000008 ∧
    pcAfter (two .rv64 5 5) 32 0x00629463 = some 0x80000004 := by decide +kernel
-- 2.4
theorem test_lb_lbu : regAfter (withMem (two .rv64 0x80001000 0) 0x80001000 1 0x80) 32 0x00028383 7 = some 0xFFFFFFFFFFFFFF80 ∧
    regAfter (withMem (two .rv64 0x80001000 0) 0x80001000 1 0x80) 32 0x0002C383 7 = some 0x80 := by decide +kernel
theorem test_lw_lwu :
    regAfter (withMem (two .rv64 0x80001000 0) 0x80001000 4 0x80000001) 32 0x0002A383 7 = some 0xFFFFFFFF80000001 ∧
    regAfter (withMem (two .rv64 0x80001000 0) 0x80001000 4 0x80000001) 32 0x0002E383 7 = some 0x80000001 := by decide +kernel
theorem test_lh_negative_offset :
    regAfter (withMem (two .rv64 0x80001002 0) 0x80001000 2 0xFFFE) 32 0xFFE29383 7 = some 0xFFFFFFFFFFFFFFFE := by
  decide +kernel
theorem test_lw_misaligned :
    regAfter (withMem (two .rv64 0x80001001 0) 0x80001000 8 0x0807060504030201) 32 0x0002A383 7 = some 0x05040302 := by
  decide +kernel
theorem test_sw_is_split_at_a_page : memAfter (two .rv64 0x80001FFE 0xAABBCCDD) 32 0x0062A023 0x80001FFE 2 = some 0xCCDD ∧
    memAfter (two .rv64 0x80001FFE 0xAABBCCDD) 32 0x0062A023 0x80002000 2 = some 0xAABB := by decide +kernel
theorem test_sb_writes_one_byte :
    memAfter (withMem (two .rv64 0x80001000 0x1FF) 0x80001000 4 0x11223344) 32 0x006280A3 0x80001000 4 = some 0x1122FF44 := by
  decide +kernel
theorem test_sd : memAfter (two .rv64 0x80001000 0x0123456789ABCDEF) 32 0x0062B423 0x80001008 8 = some 0x0123456789ABCDEF := by
  decide +kernel
theorem test_lw_outside_ram : csrAfter (two .rv64 0x1000 0) 32 0x0002A383 kMcause = some 5 ∧
    csrAfter (two .rv64 0x1000 0) 32 0x0002A383 kMtval = some 0x1000 := by decide +kernel
theorem test_sw_outside_ram : csrAfter (two .rv64 0x1000 1) 32 0x0062A023 kMcause = some 7 ∧
    csrAfter (two .rv64 0x1000 1) 32 0x0062A023 kMtval = some 0x1000 := by decide +kernel
theorem test_load_to_x0_accesses : csrAfter (two .rv64 0x1000 0) 32 0x0002A003 kMcause = some 5 := by decide +kernel
-- 2.5
theorem test_mulhsu_mulhu : regAfter (two .rv64 0xFFFFFFFFFFFFFFFF 0xFFFFFFFFFFFFFFFF) 32 0x0262A3B3 7 = some 0xFFFFFFFFFFFFFFFF ∧
    regAfter (two .rv64 0xFFFFFFFFFFFFFFFF 0xFFFFFFFFFFFFFFFF) 32 0x0262B3B3 7 = some 0xFFFFFFFFFFFFFFFE := by decide +kernel
theorem test_mulh_mul : regAfter (two .rv64 0xFFFFFFFFFFFFFFFF 0xFFFFFFFFFFFFFFFF) 32 0x026293B3 7 = some 0 ∧
    regAfter (two .rv64 0x4000000000000000 4) 32 0x026283B3 7 = some 0 := by decide +kernel
theorem test_div_overflow : regAfter (two .rv64 0x8000000000000000 0xFFFFFFFFFFFFFFFF) 32 0x0262C3B3 7 = some 0x8000000000000000 ∧
    regAfter (two .rv32 0x80000000 0xFFFFFFFF) 32 0x0262C3B3 7 = some 0x80000000 := by decide +kernel
theorem test_rem_signs : regAfter (two .rv64 0xFFFFFFFFFFFFFFF9 2) 32 0x0262E3B3 7 = some 0xFFFFFFFFFFFFFFFF ∧
    regAfter (two .rv64 7 0xFFFFFFFFFFFFFFFE) 32 0x0262E3B3 7 = some 1 := by decide +kernel
theorem test_divu_remu_by_zero : regAfter (two .rv64 7 0) 32 0x0202D3B3 7 = some 0xFFFFFFFFFFFFFFFF ∧
    regAfter (two .rv64 0xFFFFFFFFFFFFFFF9 0) 32 0x0202F3B3 7 = some 0xFFFFFFFFFFFFFFF9 := by decide +kernel
theorem test_divw_overflow_remw_by_zero : regAfter (two .rv64 0x80000000 0xFFFFFFFFFFFFFFFF) 32 0x0262C3BB 7 = some 0xFFFFFFFF80000000 ∧
    regAfter (two .rv64 0x180000000 0) 32 0x0202E3BB 7 = some 0xFFFFFFFF80000000 := by decide +kernel
theorem test_mulw_divuw : regAfter (two .rv64 0x10000 0x8000) 32 0x026283BB 7 = some 0xFFFFFFFF80000000 ∧
    regAfter (two .rv64 5 0) 32 0x0202D3BB 7 = some 0xFFFFFFFFFFFFFFFF := by decide +kernel
-- 2.6
theorem test_lr_sign_extends :
    regAfter (withMem (two .rv64 0x80001000 0) 0x80001000 4 0xFFFFFFF0) 32 0x1002A3AF 7 = some 0xFFFFFFFFFFFFFFF0 ∧
    after (two .rv64 0x80001000 0) 32 0x1002A3AF (fun t => t.resv.toNat) = some 1 := by decide +kernel
theorem test_sc_with_and_without_reservation :
    regAfter { two .rv64 0x80001000 0x2A with resv := true } 32 0x1862A42F 8 = some 0 ∧
    memAfter { two .rv64 0x80001000 0x2A with resv := true } 32 0x1862A42F 0x80001000 4 = some 0x2A ∧
    regAfter (two .rv64 0x80001000 0x2A) 32 0x1862A42F 8 = some 1 ∧
    memAfter (two .rv64 0x80001000 0x2A) 32 0x1862A42F 0x80001000 4 = some 0 := by decide +kernel
theorem test_amoadd : regAfter (withMem (two .rv64 0x80001000 5) 0x80001000 4 0xFFFFFFFF) 32 0x0062A3AF 7 = some 0xFFFFFFFFFFFFFFFF ∧
    memAfter (withMem (two .rv64 0x80001000 5) 0x80001000 4 0xFFFFFFFF) 32 0x0062A3AF 0x80001000 4 = some 4 := by decide +kernel
theorem test_amoswap_into_rs2 : regAfter (withMem (two .rv64 0x80001000 5) 0x80001000 4 9) 32 0x0862A32F 6 = some 9 ∧
    memAfter (withMem (two .rv64 0x80001000 5) 0x80001000 4 9) 32 0x0862A32F 0x80001000 4 = some 5 := by decide +kernel
theorem test_amomin_amominu :
    memAfter (withMem (two .rv64 0x80001000 1) 0x80001000 4 0xFFFFFFFF) 32 0x8062A3AF 0x80001000 4 = some 0xFFFFFFFF ∧
    memAfter (withMem (two .rv64 0x80001000 1) 0x80001000 4 0xFFFFFFFF) 32 0xC062A3AF 0x80001000 4 = some 1 := by decide +kernel
theorem test_amomax_d :
    memAfter (withMem (two .rv64 0x80001000 0xFFFFFFFFFFFFFFFD) 0x80001000 8 0xFFFFFFFFFFFFFFFB) 32 0xA062B3AF 0x80001000 8 =
      some 0xFFFFFFFFFFFFFFFD := by decide +kernel
theorem test_atomic_misaligned : csrAfter (two .rv64 0x80001002 1) 32 0x1002A3AF kMcause = some 4 ∧
    csrAfter (two .rv64 0x80001002 1) 32 0x1862A3AF kMcause = some 6 ∧
    csrAfter (two .rv64 0x80001002 1) 32 0x0062A3AF kMcause = some 6 := by decide +kernel
theorem test_amo_outside_ram : csrAfter (two .rv64 0x1000 1) 32 0x0062A3AF kMcause = some 7 := by decide +kernel
-- 2.7
theorem test_csrrs_misa : regAfter (two .rv64 0 0) 32 0x30102373 6 = some 0x8000000000141105 := by decide +kernel
theorem test_csrrw_misa : csrAfter (two .rv64 0 0) 32 0x30129373 kMtval = some 0x30129373 ∧
    regAfter (two .rv64 0x8000000000141105 0) 32 0x30129373 6 = some 0x8000000000141105 := by decide +kernel
theorem test_csrrw_mip_and_sip : after (two .rv64 0xFFFFFFFFFFFFFFFF 0) 32 0x34429073 (fun t => t.ip.toNat) = some 0x222 ∧
    after (two .rv64 0xFFFFFFFFFFFFFFFF 0) 32 0x14429073 (fun t => t.ip.toNat) = some 2 := by decide +kernel
theorem test_csrrw_satp : csrAfter (two .rv64 0x1000000000000000 0) 32 0x18029373 kSatp = some 0 ∧
    csrAfter (two .rv64 0x8000000000080010 0) 32 0x18029073 kSatp = some 0x8000000000080010 := by decide +kernel
theorem test_csr_aliases : regAfter (two .rv64 0 0) 32 0xB0002373 6 = some 0xA00000000 ∧
    regAfter (two .rv64 0 0) 32 0x70002373 6 = some 0xA00000000 := by decide +kernel
theorem test_csr_privilege : csrAfter (start .rv64 .supervisor []) 32 0x30002373 kMcause = some 2 ∧
    csrAfter (start .rv64 .user []) 32 0x14002373 kMcause = some 2 := by decide +kernel
theorem test_csrrsi_sstatus : csrAfter (two .rv64 0 0) 32 0x10016073 kMstatus = some 0xA00000002 := by decide +kernel
-- 2.8
theorem test_ecall_causes : csrAfter (start .rv64 .machine []) 32 0x00000073 kMcause = some 11 ∧
    csrAfter (start .rv64 .user []) 32 0x00000073 kMcause = some 8 ∧
    csrAfter (start .rv64 .supervisor []) 32 0x00000073 kMcause = some 9 := by decide +kernel
theorem test_ebreak : csrAfter (two .rv64 0 0) 32 0x00100073 kMcause = some 3 ∧
    csrAfter (two .rv64 0 0) 32 0x00100073 kMtval = some 0x80000000 := by decide +kernel
theorem test_wfi : pcAfter (two .rv64 0 0) 32 0x10500073 = some 0x80000004 ∧
    csrAfter (start .rv64 .user []) 32 0x10500073 kMtval = some 0x10500073 := by decide +kernel
-- 2.9
theorem test_c_lui : regAfter (two .rv64 0 0) 16 0x757D 10 = some 0xFFFFFFFFFFFFF000 := by decide +kernel
theorem test_c_addi16sp_addi4spn : regAfter (start .rv64 .machine [(2, 0x80000800)]) 16 0x7139 2 = some 0x800007C0 ∧
    regAfter (start .rv64 .machine [(2, 0x80000800)]) 16 0x0800 8 = some 0x80000810 := by decide +kernel
theorem test_c_swsp : memAfter (start .rv64 .machine [(2, 0x80001000), (5, 0xDEADBEEF)]) 16 0xC416 0x80001008 4 = some 0xDEADBEEF := by
  decide +kernel
theorem test_c_lw : regAfter (withMem (start .rv64 .machine [(8, 0x80001000)]) 0x8000107C 4 0x80000000) 16 0x5C64 9 =
    some 0xFFFFFFFF80000000 := by decide +kernel
theorem test_c_jalr : regAfter (start .rv64 .machine [(5, 0x80000006)]) 16 0x9282 1 = some 0x80000002 ∧
    pcAfter (start .rv64 .machine [(5, 0x80000006)]) 16 0x9282 = some 0x80000006 := by decide +kernel
theorem test_c_jal_rv32 : regAfter (two .rv32 0 0) 16 0x2011 1 = some 0x80000002 ∧
    pcAfter (two .rv32 0 0) 16 0x2011 = some 0x80000004 := by decide +kernel
theorem test_c_addiw : regAfter (start .rv64 .machine [(10, 0x7FFFFFFF)]) 16 0x2505 10 = some 0xFFFFFFFF80000000 := by
  decide +kernel
theorem test_c_srai : regAfter (start .rv64 .machine [(8, 0xFFFFFFFFFFFFFF00)]) 16 0x8411 8 = some 0xFFFFFFFFFFFFFFF0 := by
  decide +kernel

/-! #### Translation (2.10, 2.11) -/

/-- The Sv39 tables of 2.10, with the data page's entry. -/
def sv39 (p : Priv) (data : Word) (regs : List (RegIdx × Word)) : State :=
  let s := withMem (withMem (withMem (withMem (start .rv64 .machine regs) 0x80010000 8 0x20004401) 0x80011000 8 0x20004801)
    0x80012000 8 0x2000805B) 0x80012008 8 data
  (satpWrite 0x8000000000080010 s).setPriv p

theorem test_walk_reads_and_writes :
    walk 0x1234 .read (sv39 .user 0x20008417 []) = .page 0x80021234 (some (0x80012008, 0x20008457)) ∧
    walk 0x1234 .write (sv39 .user 0x20008417 []) = .page 0x80021234 (some (0x80012008, 0x200084D7)) ∧
    walk 0x10 .exec (sv39 .user 0x20008417 []) = .page 0x80020010 none := by decide +kernel
theorem test_walk_faults :
    walk 0x1234 .read (sv39 .supervisor 0x20008417 []) = .fault (.pageFault .read) ∧
    walk 0x10 .write (sv39 .user 0x20008417 []) = .fault (.pageFault .write) ∧
    walk 0x8000000000 .read (sv39 .user 0x20008417 []) = .fault (.pageFault .read) ∧
    walk 0x1000 .read (sv39 .user 0x40000020008417 []) = .fault (.pageFault .read) := by decide +kernel
theorem test_walk_superpage :
    let t (e : Word) := withMem (sv39 .supervisor 0 []) 0x80010010 8 e
    walk 0x87654321 .read (t 0x200000CF) = .page 0x87654321 none ∧
    walk 0x87654321 .read (t 0x200800CF) = .fault (.pageFault .read) := by decide +kernel
theorem test_translated_store :
    let s := { sv39 .user 0x20008417 [(11, 0x1000), (10, 0x123)] with pc := 0 }
    memAfter s 32 0x00A5A023 0x80021000 4 = some 0x123 ∧ memAfter s 32 0x00A5A023 0x80012008 8 = some 0x200084D7 := by
  decide +kernel

/-! #### The reference trap unit (2.13) and interrupts (2.14) -/

theorem test_ecall_from_u :
    let s := withCsr (withCsr (start .rv64 .user []) kMtvec 0x80000100) kMstatus 0xA00000008
    csrAfter s 32 0x00000073 kMepc = some 0x80000000 ∧ csrAfter s 32 0x00000073 kMstatus = some 0xA00000080 ∧
    pcAfter s 32 0x00000073 = some 0x80000100 := by decide +kernel
theorem test_ecall_from_u_delegated :
    let s := withCsr (withCsr (withCsr (start .rv64 .user []) kMedeleg 0x100) kStvec 0x80000200) kMstatus 0xA00000002
    csrAfter s 32 0x00000073 kScause = some 8 ∧ csrAfter s 32 0x00000073 kMstatus = some 0xA00000020 ∧
    pcAfter s 32 0x00000073 = some 0x80000200 := by decide +kernel
theorem test_mret :
    let s := withCsr (withCsr (start .rv64 .machine []) kMstatus 0xA00000080) kMepc 0x80000031
    csrAfter s 32 0x30200073 kMstatus = some 0xA00000088 ∧ pcAfter s 32 0x30200073 = some 0x80000030 ∧
    after s 32 0x30200073 (fun t => t.priv.code) = some 0 := by decide +kernel
theorem test_mret_with_reserved_mpp :
    let s := withCsr (withCsr (start .rv64 .machine []) kMstatus 0xA00001000) kMtvec 0x80000100
    csrAfter s 32 0x30200073 kMcause = some 2 ∧ csrAfter s 32 0x30200073 kMstatus = some 0xA00001800 := by decide +kernel
theorem test_sret :
    let s := withCsr (withCsr (start .rv64 .supervisor []) kMstatus 0xA00000120) kSepc 0x80000040
    csrAfter s 32 0x10200073 kMstatus = some 0xA00000022 ∧ pcAfter s 32 0x10200073 = some 0x80000040 := by decide +kernel

/-- A state with an enabled machine external interrupt pending (I1, I2). -/
def irqState (tvec : Word) : State :=
  { withCsr (withCsr (withCsr (start .rv64 .machine []) kMtvec tvec) kMstatus 0xA00000008) kMie 0x800 with ip := 0x800 }

theorem test_interrupt_entry :
    (match step (irqState 0x80000101) with | .next t => some (t.pc.toNat, (t.csrAt kMcause).toNat, (t.csrAt kMstatus).toNat) | _ => none) =
      some (0x8000012C, 0x800000000000000B, 0xA00001880) := by decide +kernel

/-! #### The PLIC (1.4, 2.15) -/

/-- Sources 3 and 7 with priority 5, enabled for context 0. -/
def plicState : State :=
  let s := plicWrite (.priority 3) 5 (plicWrite (.priority 7) 5 (State.resetOf (Config.reference .rv64) []))
  { s with plic := { s.plic with enable := [(0, 0x88)] } }

theorem test_plic_tie_break :
    let s := (((plicRaise 3 plicState).getD plicState |> plicRaise 7).getD plicState)
    let a := claimRead 0 s
    let b := claimRead 0 (plicWrite (.claim 0) 0 a.2)
    let c := plicWrite (.claim 0) 0 b.2
    s.ip = 0x800 ∧ a.1 = 3 ∧ b.1 = 7 ∧ c.ip = 0 ∧ (claimRead 0 c).1 = 0 := by decide +kernel
theorem test_plic_raise_fails : plicRaise 0 plicState = none ∧ plicRaise 32 plicState = none := by decide +kernel
theorem test_plic_window : (plicAccess 0xC 2 .read 0 plicState).1 = none ∧ (plicAccess 0xE 4 .read 0 plicState).1 = none ∧
    (plicAccess 0x1004 4 .read 0 plicState).1 = none ∧ (plicAccess 0xC 4 .read 0 plicState).1 = some 5 := by decide +kernel

/-- Device callbacks inside the two register accesses of an 8-byte priority write: the first raises source 3 after its effect (R1021). -/
theorem test_plic_reentrant_raise :
    let s := { plicState with callbacks := [⟨[], [3]⟩, ⟨[7], []⟩] }
    let t := (plicAccess 0x8 8 .write 0x0000000900000001 s).2
    t.plic.isPending 3 = true ∧ t.plic.isPending 7 = true ∧ t.plic.claimOf 0 = 3 ∧ t.ip = 0x800 ∧ t.callbacks = [] ∧
    t.plic.prioOf 2 = 1 ∧ t.plic.prioOf 3 = 9 := by decide +kernel

/-- A store to an external region carries the offset, the size, the type and the bytes of its width (R208, D55). -/
theorem test_device_request :
    let r : Region := ⟨⟨0x10000000, 0x100000FF⟩, 1, 2⟩
    let s := start .rv64 .machine []
    let s := { s with cfg := { s.cfg with mmio := [r] } }
    (physAccess 0x10000005 2 .write 0xAABBCCDD s).2.requests = [⟨r, 5, 2, .write, 0xCCDD⟩] ∧
    (physAccess 0x10000008 8 .read 0 s).2.requests = [⟨r, 8, 8, .read, 0⟩] ∧
    (physAccess 0x100000FF 2 .read 0 s) = (none, s) := by decide +kernel

/-- Configurations that R21 and D9 rule out: overlapping, or not page-aligned. -/
theorem test_wf_refuses_regions :
    let c := Config.reference .rv64
    let r (b l : Nat) : Region := ⟨⟨b, l⟩, 0, 0⟩
    { c with mmio := [r 0x10000000 0x100000FF] }.wf = true ∧ { c with mmio := [r 0x10000010 0x100000FF] }.wf = false ∧
    { c with plicBase := 0x0C000010 }.wf = false ∧ { c with mmio := [r 0x8FFFF000 0x900000FF] }.wf = false ∧
    { c with tlbSize := 0 }.wf = false := by decide +kernel

/-! ### Witnesses: states and operands that meet the hypotheses of every statement -/

/-- An empty TLB is as every run leaves it. -/
theorem tlbOk_of_empty {s : State} (h : s.tlb = []) : TlbOk s :=
  ⟨by simp [h], by simp [h], by simp [h]⟩

/-- The hypotheses of an access to plain RAM, as one check. -/
theorem plainRam_of {s : State} {a n : Nat}
    (h : s.paging = .bare ∧ s.tlb = [] ∧ a + n ≤ modulus s ∧ s.cfg.inRam a n = true) : PlainRam s a n :=
  ⟨h.1, tlbOk_of_empty h.2.1, h.2.2.1, h.2.2.2⟩

/-- The hypotheses of an access through the page tables, with an empty TLB, as one check. -/
theorem mappedRam_of {s : State} {va n : Nat} {acc : Access} {p : Nat} {up : Option (Nat × Word)}
    (h : s.tlb = [] ∧ va < 2 ^ 64 ∧ va % 4096 + n ≤ 4096 ∧ walk (BitVec.ofNat 64 va) acc s = .page p up ∧
      s.cfg.inRam p n = true) : MappedRam s va n acc p up :=
  ⟨h.2.1, h.2.2.1, h.2.2.2.1, fun e he => by simp [tlbMatch, tlbLookup, h.1] at he, h.2.2.2.2⟩

/-- The same where the TLB holds entries, none of which matches. -/
theorem mappedRam_unmatched {s : State} {va n : Nat} {acc : Access} {p : Nat} {up : Option (Nat × Word)}
    (h : tlbMatch (BitVec.ofNat 64 va) acc s = none ∧ va < 2 ^ 64 ∧ va % 4096 + n ≤ 4096 ∧
      walk (BitVec.ofNat 64 va) acc s = .page p up ∧ s.cfg.inRam p n = true) : MappedRam s va n acc p up :=
  ⟨h.2.1, h.2.2.1, h.2.2.2.1, fun e he => by simp [h.1] at he, h.2.2.2.2⟩

/-- The hypotheses of an access that lands outside RAM, as one check. -/
theorem landsOutside_of {s : State} {va n : Nat} {acc : Access} {p : Nat} {up : Option (Nat × Word)}
    (h : s.cfg.wf = true ∧ va < 2 ^ 64 ∧ va % 4096 + n ≤ 4096 ∧ walk (BitVec.ofNat 64 va) acc s = .page p up ∧
      tlbMatch (BitVec.ofNat 64 va) acc s = none ∧ s.cfg.inRam p n = false) : LandsOutside s va n acc p up :=
  ⟨h.1, h.2.1, h.2.2.1, h.2.2.2.1, .inl h.2.2.2.2.1, h.2.2.2.2.2⟩

/-- The widths, as one check. -/
theorem widthOk_of {s : State}
    (h : ((∀ i : Fin 32, s.cfg.xlen.trunc s.regs[i] = s.regs[i]) ∧ s.cfg.xlen.trunc s.pc = s.pc ∧ s.cfg.xlen.trunc s.ip = s.ip) ∧
      (∀ e ∈ s.csr, s.cfg.xlen.trunc e.2 = e.2) ∧ Table.wf 0 s.csr = true) : WidthOk s :=
  ⟨h.1.1, h.1.2.1, h.1.2.2, h.2.1, h.2.2⟩

/-- An external trap unit. -/
def external (s : State) : State := { s with cfg := { s.cfg with trapUnit := .external } }

/-- An external region in a page of its own. -/
def uart : Region := ⟨⟨0x10000000, 0x100000FF⟩, 1, 2⟩

/-- A machine with it. -/
def withUart (s : State) : State := { s with cfg := { s.cfg with mmio := [uart] } }

theorem reset_memory_wf : Memory.wf State.reset.mem = true := by decide +kernel

theorem witness_DecodeOfEncode : (Instr.cLui 31 0x3F).wf .rv32 = true ∧ (Instr.sd 31 30 0xFFF).wf .rv64 = true := by decide

theorem witness_EncodeOfDecode :
    (∀ w, Raw.full 0x007302B3 = .full w → w.extractLsb' 0 2 = 3#2) ∧
    decode .rv32 (.full 0x007302B3) = .ok (.add 5 6 7) ∧ decode .rv64 (.half 0x157E) = .ok (.cSlli 10 63) := by
  refine ⟨fun w h => ?_, by decide +kernel, by decide +kernel⟩
  cases h; decide

/-- The word of all ones (R340): its op5 is that of no instruction. -/
theorem encode_ne_ones (i : Instr) : encode i ≠ .full 0xFFFFFFFF := by
  intro h
  cases i <;> simp only [encode, reduceCtorEq, Raw.full.injEq] at h <;>
    exact absurd (congrArg (BitVec.extractLsb' 2 5) h) (by simp)

/-- Slots with no handler; a word of each second-level check; a word of each reserved compressed encoding; a word that encodes
nothing. -/
theorem witness_InstalledSlotsAndIllegalWords :
    (slot32 .rv64 (fid 0x0000000B) = none ∧ slot16 .rv32 (cid 0x6000) = none) ∧
    (∀ w ∈ [0x047302B3#32, 0x407392B3, 0x44735293, 0x0473129B, 0x107322AF, 0x1453252F, 0x00200073, 0x120000F3],
      FailsSecondLevel .rv64 w) ∧ FailsSecondLevel .rv32 0x02031293 ∧
    (∀ h ∈ [0x0000#16, 0x4002, 0x6002, 0x8002, 0x6101, 0x6081, 0x2001, 0x9C41], ReservedHalf .rv64 h) ∧
    (∀ h ∈ [0x9001#16, 0x9401, 0x1082, 0x9C01], ReservedHalf .rv32 h) ∧
    (∀ w, Raw.full 0xFFFFFFFF = .full w → w.toNat % 4 = 3) ∧ ∀ i, i.wf .rv64 = true → encode i ≠ .full 0xFFFFFFFF := by
  refine ⟨by decide, ?_, ?_, ?_, ?_, fun w h => ?_, fun i _ => encode_ne_ones i⟩
  · simp [FailsSecondLevel]
  · simp [FailsSecondLevel]
  · simp [ReservedHalf]
  · simp [ReservedHalf]
  · cases h; decide +kernel

theorem witness_Rv64WordsAreIllegalOnRv32 :
    (start .rv32 .machine []).cfg.xlen = .rv32 ∧ (Instr.ld 7 0 0).rv64Only = true ∧ (Instr.cSubw 1 2).rv64Only = true ∧
    ∀ rd imm, Instr.cSubw 1 2 ≠ .cAddiw rd imm :=
  ⟨by decide +kernel, by decide, by decide, fun _ _ h => by cases h⟩

theorem witness_StepRunsTheDecodedInstruction :
    let s := (start .rv64 .machine []).withFetchWord 32 0x00128313
    (s.cfg.wf = true ∧ s.runState = .running ∧ s.turns = [] ∧ boundaryInterrupt s = none ∧ s.pc.getLsbD 0 = false ∧
      s.cfg.xlen.trunc s.pc = s.pc) ∧ PlainRam s s.pc.toNat 4 ∧
    decodeBytes s.cfg.xlen ((List.range 4).map fun k => Memory.read s.mem (s.pc.toNat + k)) = .ok (.addi 6 5 1, []) :=
  ⟨by decide +kernel, plainRam_of (by decide +kernel), by decide +kernel⟩

/-- An odd pc, a fetch outside every region, and fetches through the Sv39 tables: in the middle of a page and at its end, with the next
page mapped and not, and from a page of an external region. `m` is the state after the first half at the end of the code page. -/
theorem witness_FetchFaultsAndPageEnds :
    let s := { start .rv64 .machine [] with pc := 0x80000001 }
    let o := { start .rv64 .machine [] with pc := 0x1000 }
    let f := { sv39 .user 0 [] with pc := 0x1000 }
    let g := { sv39 .user 0 [] with pc := 0x100 }
    let e := withMem { sv39 .user 0 [] with pc := 0xFFE } 0x80020FFE 2 0x0513
    let x := withMem e 0x80012008 8 0x2000845B
    let h := withMem e 0x80020FFE 2 0x0001
    let d := withUart { sv39 .user 0x400005B [] with pc := 0x1000 }
    let y := withUart { sv39 .user 0x400005B [] with pc := 0x1FFE }
    let z := withUart (withMem e 0x80012008 8 0x400005B)
    let m (s : State) := tlbFill 0xFFE .exec 0x80020FFE s
    let reaches (s : State) := match subAccess 0xFFE 2 .exec 0 s with
      | .ok v t => decide (v = 0x0513 ∧ t = m s)
      | .trap _ _ _ => false
    ((∀ t ∈ [s, o, f, g, e, x, h, d, y, z],
        t.cfg.wf = true ∧ t.runState = .running ∧ t.turns = [] ∧ boundaryInterrupt t = none) ∧
      s.pc.getLsbD 0 = true ∧ ∀ t ∈ [o, f, g, e, x, h, d, y, z], t.pc.getLsbD 0 = false) ∧
    (WalkFaults f 0x1000 .exec (.pageFault .exec) ∧ o.cfg.regionOf 0x1000 4 = none) ∧ LandsOutside o 0x1000 4 .exec 0x1000 none ∧
    MappedRam g 0x100 4 .exec 0x80020100 none ∧
    MappedRam h 0xFFE 2 .exec 0x80020FFE none ∧ MappedRam e 0xFFE 2 .exec 0x80020FFE none ∧
    MappedRam x 0xFFE 2 .exec 0x80020FFE none ∧ MappedRam z 0xFFE 2 .exec 0x80020FFE none ∧
    (leNat h.mem 0x80020FFE 2 % 4 = 1 ∧ leNat e.mem 0x80020FFE 2 % 4 = 3 ∧ reaches e = true ∧ reaches x = true ∧
      reaches z = true) ∧
    WalkFaults (m e) 0x1000 .exec (.pageFault .exec) ∧ MappedRam (m x) 0x1000 2 .exec 0x80021000 none ∧
    LandsOutside (m z) 0x1000 2 .exec 0x10000000 none ∧
    LandsOutside d 0x1000 4 .exec 0x10000000 none ∧ LandsOutside y 0x1FFE 2 .exec 0x10000FFE none ∧
    d.cfg.regionOf 0x10000000 4 = some uart :=
  ⟨by decide +kernel, by unfold WalkFaults; decide +kernel, landsOutside_of (by decide +kernel), mappedRam_of (by decide +kernel),
    mappedRam_of (by decide +kernel), mappedRam_of (by decide +kernel), mappedRam_of (by decide +kernel),
    mappedRam_of (by decide +kernel), by decide +kernel, by unfold WalkFaults; decide +kernel,
    mappedRam_unmatched (by decide +kernel), landsOutside_of (by decide +kernel), landsOutside_of (by decide +kernel),
    landsOutside_of (by decide +kernel), by decide +kernel⟩

theorem witness_InterruptsAreTakenAtBoundaries :
    let s := irqState 0x80000100
    let q := start .rv64 .machine []
    (s.cfg.wf = true ∧ s.runState = .running ∧ s.turns = [] ∧ s.cfg.trapUnit = .reference ∧ selectInterrupt s = some 11) ∧
    (q.cfg.wf = true ∧ q.runState = .running ∧ q.turns = [] ∧ q.cfg.trapUnit = .reference ∧ selectInterrupt q = none) ∧
    (external s).cfg.wf = true ∧ (external s).runState = .running ∧ (external s).turns = [] ∧
      (external s).cfg.trapUnit = .external := by decide +kernel

/-- I7: three enabled and pending; and a delegated one pending with a machine-level one (I4, I5). -/
theorem witness_InterruptSelectionOrder :
    let s := { irqState 0x80000100 with ip := 0x888 }
    let s := withCsr s kMie 0x888
    let t := withCsr (withCsr (withCsr { start .rv64 .supervisor [] with ip := 0x208 } kMie 0x208) kMideleg 0x200) kMstatus 2
    selectInterrupt s = some 11 ∧ s.priv = .machine ∧ selectInterrupt t = some 3 ∧
    selectInterrupt { t with ip := 0x200 } = some 9 ∧ selectInterrupt { t with ip := 0 } = none := by decide +kernel

theorem witness_RefusedAndHaltedSteps :
    let s := external { start .rv64 .machine [] with runState := .faulted .breakpoint 0 }
    s.cfg.wf = true ∧ s.runState ≠ .running ∧ s.turns = [] ∧ { s with turns := [.hart] }.turns = .hart :: [] ∧
    { s.cfg with plicContexts := 0 }.wf = false := by decide +kernel

theorem witness_OtherAgentsMoves :
    let s := start .rv64 .machine []
    let m : TrapMove := ⟨[((3, 0x41), 7), ((1, 0x80), 0x8000000000080010)], some .user, some 0x80000100⟩
    (s.cfg.wf = true ∧ { s with turns := [.platformSoftware true] }.turns = .platformSoftware true :: [] ∧
      { s with turns := [.platformTimer false] }.turns = .platformTimer false :: [] ∧
      { s with turns := [.dropTlb ⟨1, .user, false, false⟩] }.turns = .dropTlb ⟨1, .user, false, false⟩ :: [] ∧
      { s with turns := [.raiseSource 0] }.turns = .raiseSource 0 :: [] ∧
      { s with turns := [.raiseSource 32] }.turns = .raiseSource 32 :: [] ∧ s.cfg.plicSources ≤ 32 ∧
      { s with turns := [.raiseSource 31] }.turns = .raiseSource 31 :: [] ∧ 31 < s.cfg.plicSources) ∧
    ({ external s with turns := [.trapUnit m] }.turns = .trapUnit m :: [] ∧ (external s).cfg.wf = true ∧
      (external s).cfg.trapUnit = .external ∧ s.cfg.trapUnit = .reference) ∧
    m.csrs = [] ++ ((3, 0x41), 7) :: [((1, 0x80), 0x8000000000080010)] ∧
    (csrPolicy s.cfg 3 0x41 ≠ .satp ∧ csrPolicy s.cfg 1 0x80 = .satp ∧ csrKey 1 0x80 ≠ csrKey 3 0x41 ∧ csrKey 3 0x41 ≠ kSatp) ∧
    m.csrs = [((3, 0x41), 7)] ++ ((1, 0x80), 0x8000000000080010) :: [] ∧
    satpMode s.cfg.xlen (fit s 0x8000000000080010) = some .sv39 := by decide +kernel

theorem witness_ShiftResults : (31#6).toNat < (start .rv32 .machine []).cfg.xlen.bits ∧
    (63#6).toNat < (start .rv64 .machine []).cfg.xlen.bits := by decide +kernel

theorem witness_WordFormResults : (start .rv64 .machine []).cfg.xlen = .rv64 ∧ (31#5 : RegIdx) ≠ 0 := by decide +kernel

theorem witness_WordMulDivResults : (start .rv64 .machine []).cfg.xlen = .rv64 := by decide +kernel

theorem witness_NoOperations : (start .rv64 .supervisor []).priv ≠ .user := by decide +kernel

theorem witness_CompressedRegisterResults :
    (0xFF#8 : BitVec 8) ≠ 0 ∧ (1#5 : RegIdx) ≠ 0 ∧ (0x20#6 : BitVec 6) ≠ 0 ∧ (1#5 : RegIdx) ≠ 2 ∧
    (31#6).toNat < (start .rv32 .machine []).cfg.xlen.bits ∧ (63#6).toNat < (start .rv64 .machine []).cfg.xlen.bits := by
  decide +kernel

theorem witness_CompressedControlResults : (start .rv32 .machine []).cfg.xlen = .rv32 ∧ (31#5 : RegIdx) ≠ 0 := by decide +kernel

/-- The last word of RAM, and an unaligned doubleword across a page boundary. -/
theorem witness_LoadsFromRam :
    let s := start .rv32 .machine [(6, 0x90000000)]
    let t := start .rv64 .machine [(2, 0x80000FF9)]
    (loadForm (.lw 5 6 0xFFC) = some ⟨5, 6, -4, 4, true, 4⟩ ∧ (Instr.lw 5 6 0xFFC).wf s.cfg.xlen = true ∧
      addr s 6 (-4) = 0x8FFFFFFC) ∧ PlainRam s (addr s 6 (-4)) 4 ∧
    (loadForm (.cLdsp 5 0) = some ⟨5, 2, 0, 8, true, 2⟩ ∧ (Instr.cLdsp 5 0).wf t.cfg.xlen = true) ∧ PlainRam t (addr t 2 0) 8 :=
  ⟨by decide +kernel, plainRam_of (by decide +kernel), by decide +kernel, plainRam_of (by decide +kernel)⟩

theorem witness_StoresToRam :
    let s := start .rv32 .machine [(6, 0x90000000)]
    let t := start .rv64 .machine [(2, 0x80000FF9)]
    (storeForm (.sb 6 5 0xFFF) = some ⟨6, 5, -1, 1, 4⟩ ∧ (Instr.sb 6 5 0xFFF).wf s.cfg.xlen = true ∧
      addr s 6 (-1) = 0x8FFFFFFF) ∧ PlainRam s (addr s 6 (-1)) 1 ∧
    (storeForm (.cSdsp 5 0) = some ⟨2, 5, 0, 8, 2⟩ ∧ (Instr.cSdsp 5 0).wf t.cfg.xlen = true) ∧ PlainRam t (addr t 2 0) 8 :=
  ⟨by decide +kernel, plainRam_of (by decide +kernel), by decide +kernel, plainRam_of (by decide +kernel)⟩

/-- The data page of 2.10 and the last doubleword of it, with accessed and dirty clear; and with no entry. -/
theorem witness_TranslatedLoadsAndStores :
    let s := sv39 .user 0x20008417 [(6, 0x1FF8)]
    let t := sv39 .user 0 [(6, 0x1FF8)]
    ((Instr.ld 5 6 0).wf s.cfg.xlen = true ∧ (Instr.sd 6 5 0).wf s.cfg.xlen = true ∧
      loadForm (.ld 5 6 0) = some ⟨5, 6, 0, 8, true, 4⟩ ∧ storeForm (.sd 6 5 0) = some ⟨6, 5, 0, 8, 4⟩) ∧
    MappedRam s (addr s 6 0) 8 .read 0x80021FF8 (some (0x80012008, 0x20008457)) ∧
    MappedRam s (addr s 6 0) 8 .write 0x80021FF8 (some (0x80012008, 0x200084D7)) ∧
    (WalkFaults t (addr t 6 0) .read (.pageFault .read) ∧ WalkFaults t (addr t 6 0) .write (.pageFault .write) ∧
      addr t 6 0 % 4096 + 8 ≤ 4096) :=
  ⟨by decide +kernel, mappedRam_of (by decide +kernel), mappedRam_of (by decide +kernel), by unfold WalkFaults; decide +kernel⟩

/-- A word at the end of the data page with accessed and dirty clear: the page itself not mapped, the next page not mapped, and the
next page mapped to the page at 0x80022000. `r` and `w` are the states after the lower part of a load and of a store. -/
theorem witness_PageCrossingLoadsAndStores :
    let n := sv39 .user 0 [(6, 0x1FFE), (5, 0xAABBCCDD)]
    let s := sv39 .user 0x20008417 [(6, 0x1FFE), (5, 0xAABBCCDD)]
    let v := withMem s 0x80012010 8 0x200088D7
    let r (s : State) := tlbFill 0x1FFE .read 0x80021FFE (writeBackPte (some (0x80012008, 0x20008457)) s)
    let w (s : State) :=
      let t := tlbFill 0x1FFE .write 0x80021FFE (writeBackPte (some (0x80012008, 0x200084D7)) s)
      { t with mem := Memory.writeLE t.mem 0x80021FFE 2 (s.x 5) }
    ((loadForm (.lw 7 6 0) = some ⟨7, 6, 0, 4, true, 4⟩ ∧ storeForm (.sw 6 5 0) = some ⟨6, 5, 0, 4, 4⟩ ∧
      (Instr.lw 7 6 0).wf s.cfg.xlen = true ∧ (Instr.sw 6 5 0).wf s.cfg.xlen = true) ∧
      ∀ t ∈ [n, s, v], addr t 6 0 = 0x1FFE) ∧
    (WalkFaults n 0x1FFE .read (.pageFault .read) ∧ WalkFaults n 0x1FFE .write (.pageFault .write)) ∧
    MappedRam s 0x1FFE 2 .read 0x80021FFE (some (0x80012008, 0x20008457)) ∧
    MappedRam s 0x1FFE 2 .write 0x80021FFE (some (0x80012008, 0x200084D7)) ∧
    (WalkFaults (r s) 0x2000 .read (.pageFault .read) ∧ WalkFaults (w s) 0x2000 .write (.pageFault .write)) ∧
    MappedRam v 0x1FFE 2 .read 0x80021FFE (some (0x80012008, 0x20008457)) ∧
    MappedRam v 0x1FFE 2 .write 0x80021FFE (some (0x80012008, 0x200084D7)) ∧
    MappedRam (r v) 0x2000 2 .read 0x80022000 none ∧ MappedRam (w v) 0x2000 2 .write 0x80022000 none :=
  ⟨by decide +kernel, by unfold WalkFaults; decide +kernel, mappedRam_of (by decide +kernel), mappedRam_of (by decide +kernel),
    by unfold WalkFaults; decide +kernel, mappedRam_of (by decide +kernel), mappedRam_of (by decide +kernel),
    mappedRam_unmatched (by decide +kernel), mappedRam_unmatched (by decide +kernel)⟩

/-- Parts outside RAM: a word that runs off the end of RAM without translation (`b`, and `r` and `w` after its lower part); a word
at the end of the data page whose next page is an external region's (`d`, with `r'` and `w'`); and one whose own page is the PLIC's. -/
theorem witness_PageCrossingLoadsAndStores_outside :
    let b := start .rv64 .machine [(6, 0x8FFFFFFE), (5, 0xAABBCCDD)]
    let r := tlbFill 0x8FFFFFFE .read 0x8FFFFFFE b
    let w := { tlbFill 0x8FFFFFFE .write 0x8FFFFFFE b with mem := Memory.writeLE b.mem 0x8FFFFFFE 2 (b.x 5) }
    let d := withUart (withMem (sv39 .user 0x20008417 [(6, 0x1FFE), (5, 0xAABBCCDD)]) 0x80012010 8 0x4000017)
    let r' := tlbFill 0x1FFE .read 0x80021FFE (writeBackPte (some (0x80012008, 0x20008457)) d)
    let w' :=
      let t := tlbFill 0x1FFE .write 0x80021FFE (writeBackPte (some (0x80012008, 0x200084D7)) d)
      { t with mem := Memory.writeLE t.mem 0x80021FFE 2 (d.x 5) }
    let q := sv39 .user 0x3000017 [(6, 0x1FFE), (5, 0xAABBCCDD)]
    (addr b 6 0 = 0x8FFFFFFE ∧ addr d 6 0 = 0x1FFE ∧ addr q 6 0 = 0x1FFE) ∧
    MappedRam b 0x8FFFFFFE 2 .read 0x8FFFFFFE none ∧ MappedRam b 0x8FFFFFFE 2 .write 0x8FFFFFFE none ∧
    LandsOutside r 0x90000000 2 .read 0x90000000 none ∧ LandsOutside w 0x90000000 2 .write 0x90000000 none ∧
    MappedRam d 0x1FFE 2 .read 0x80021FFE (some (0x80012008, 0x20008457)) ∧
    MappedRam d 0x1FFE 2 .write 0x80021FFE (some (0x80012008, 0x200084D7)) ∧
    LandsOutside r' 0x2000 2 .read 0x10000000 (some (0x80012010, 0x4000057)) ∧
    LandsOutside w' 0x2000 2 .write 0x10000000 (some (0x80012010, 0x40000D7)) ∧
    LandsOutside q 0x1FFE 2 .read 0x0C000FFE (some (0x80012008, 0x3000057)) ∧
    LandsOutside q 0x1FFE 2 .write 0x0C000FFE (some (0x80012008, 0x30000D7)) :=
  ⟨by decide +kernel, mappedRam_of (by decide +kernel), mappedRam_of (by decide +kernel), landsOutside_of (by decide +kernel),
    landsOutside_of (by decide +kernel), mappedRam_of (by decide +kernel), mappedRam_of (by decide +kernel),
    landsOutside_of (by decide +kernel), landsOutside_of (by decide +kernel), landsOutside_of (by decide +kernel),
    landsOutside_of (by decide +kernel)⟩

/-- Just past the end of RAM, just below it, and through the page tables at a page that no region holds. -/
theorem witness_AccessesOutsideEveryRegionFault :
    let s := start .rv64 .machine [(6, 0x90000000)]
    let t := start .rv32 .machine [(6, 0x7FFFFFFC)]
    let v := sv39 .user 0x1C000017 [(6, 0x1FF8)]
    ((Instr.lb 5 6 0).wf s.cfg.xlen = true ∧ addr s 6 0 = 0x90000000 ∧ s.cfg.inPlic 0x90000000 1 = false ∧
      s.cfg.regionOf 0x90000000 1 = none ∧ loadForm (.lb 5 6 0) = some ⟨5, 6, 0, 1, true, 4⟩) ∧
    LandsOutside s 0x90000000 1 .read 0x90000000 none ∧
    ((Instr.sw 6 5 0).wf t.cfg.xlen = true ∧ addr t 6 0 = 0x7FFFFFFC ∧ t.cfg.inPlic 0x7FFFFFFC 4 = false ∧
      t.cfg.regionOf 0x7FFFFFFC 4 = none ∧ storeForm (.sw 6 5 0) = some ⟨6, 5, 0, 4, 4⟩) ∧
    LandsOutside t 0x7FFFFFFC 4 .write 0x7FFFFFFC none ∧
    (addr v 6 0 = 0x1FF8 ∧ v.cfg.inPlic 0x70000FF8 8 = false ∧ v.cfg.regionOf 0x70000FF8 8 = none) ∧
    LandsOutside v 0x1FF8 8 .read 0x70000FF8 (some (0x80012008, 0x1C000057)) ∧
    LandsOutside v 0x1FF8 8 .write 0x70000FF8 (some (0x80012008, 0x1C0000D7)) :=
  ⟨by decide +kernel, landsOutside_of (by decide +kernel), by decide +kernel, landsOutside_of (by decide +kernel), by decide +kernel,
    landsOutside_of (by decide +kernel), landsOutside_of (by decide +kernel)⟩

/-- The priority register of source 3, without translation and through the page tables: a word access is accepted, a halfword access
is rejected. -/
theorem witness_LoadsAndStoresReachThePlic :
    let s := start .rv64 .machine [(6, 0x0C00000C)]
    let v := sv39 .user 0x3000017 [(6, 0x100C)]
    let r := writeBackPte (some (0x80012008, 0x3000057)) v
    let w := writeBackPte (some (0x80012008, 0x30000D7)) v
    ((Instr.lw 5 6 0).wf s.cfg.xlen = true ∧ (Instr.sh 6 5 0).wf s.cfg.xlen = true ∧ addr s 6 0 = 0x0C00000C ∧
      addr v 6 0 = 0x100C ∧ s.cfg.inPlic 0x0C00000C 4 = true ∧ s.cfg.inPlic 0x0C00000C 2 = true ∧
      (∀ t ∈ [s, r], (plicAccess 0xC 4 .read 0 t).1 = some 0 ∧ (plicAccess 0xC 2 .read 0 t).1 = none) ∧
      ∀ t ∈ [s, w], (plicAccess 0xC 4 .write 5 t).1 = some 0 ∧ (plicAccess 0xC 2 .write 5 t).1 = none) ∧
    LandsOutside s 0x0C00000C 4 .read 0x0C00000C none ∧ LandsOutside s 0x0C00000C 2 .write 0x0C00000C none ∧
    LandsOutside v 0x100C 4 .read 0x0C00000C (some (0x80012008, 0x3000057)) ∧
    LandsOutside v 0x100C 2 .write 0x0C00000C (some (0x80012008, 0x30000D7)) :=
  ⟨by decide +kernel, landsOutside_of (by decide +kernel), landsOutside_of (by decide +kernel), landsOutside_of (by decide +kernel),
    landsOutside_of (by decide +kernel)⟩

/-- The last doubleword of an external region, without translation and through the page tables, and the claim register of the PLIC's
context 0. -/
theorem witness_AccessesReachDevices :
    let s := withUart { start .rv64 .machine [(6, 0x100000F8)] with resv := true }
    let v := withUart { sv39 .user 0x4000017 [(6, 0x10F8)] with resv := true }
    let t := start .rv64 .machine [(6, 0x0C200004)]
    ((Instr.ld 5 6 0).wf s.cfg.xlen = true ∧ (Instr.sd 6 5 0).wf s.cfg.xlen = true ∧ addr s 6 0 = 0x100000F8 ∧
      u s 6 = 0x100000F8 ∧ s.resv = true ∧ s.callbacks = [] ∧ s.cfg.inRam 0x100000F8 8 = false ∧
      s.cfg.inPlic 0x100000F8 8 = false ∧ s.cfg.regionOf 0x100000F8 8 = some uart ∧ addr v 6 0 = 0x10F8 ∧ u v 6 % 8 = 0 ∧
      v.resv = true) ∧
    LandsOutside s 0x100000F8 8 .read 0x100000F8 none ∧ LandsOutside s 0x100000F8 8 .write 0x100000F8 none ∧
    LandsOutside v 0x10F8 8 .read 0x100000F8 (some (0x80012008, 0x4000057)) ∧
    LandsOutside v 0x10F8 8 .write 0x100000F8 (some (0x80012008, 0x40000D7)) ∧
    (u t 6 = 0x0C200004 ∧ t.cfg.inPlic 0x0C200004 4 = true ∧ (Instr.amoaddW 5 6 7 false false).wf t.cfg.xlen = true ∧
      (amoForm (.amoaddW 5 6 7 false false)).map (·.bytes) = some 4 ∧ lrForm (.lrW 5 6 false false) = some (5, 6, 4) ∧
      scForm (.scW 5 6 7 false false) = some (5, 6, 7, 4)) ∧
    LandsOutside t 0x0C200004 4 .read 0x0C200004 none ∧ LandsOutside t 0x0C200004 4 .write 0x0C200004 none :=
  ⟨by decide +kernel, landsOutside_of (by decide +kernel), landsOutside_of (by decide +kernel), landsOutside_of (by decide +kernel),
    landsOutside_of (by decide +kernel), by decide +kernel, landsOutside_of (by decide +kernel), landsOutside_of (by decide +kernel)⟩

theorem witness_LoadReservedStoreConditional :
    let s := { start .rv64 .machine [(6, 0x8FFFFFF8)] with resv := true }
    let t := { sv39 .user 0x20008417 [(6, 0x1FF8)] with resv := true }
    ((Instr.lrD 5 6 true true).wf s.cfg.xlen = true ∧ lrForm (.lrD 5 6 true true) = some (5, 6, 8) ∧ u s 6 % 8 = 0 ∧
      (Instr.scD 5 6 7 false false).wf s.cfg.xlen = true ∧ scForm (.scD 5 6 7 false false) = some (5, 6, 7, 8) ∧ s.resv = true ∧
      { s with resv := false }.resv = false ∧ u t 6 % 8 = 0 ∧ t.resv = true) ∧ PlainRam s (u s 6) 8 ∧
    MappedRam t (u t 6) 8 .read 0x80021FF8 (some (0x80012008, 0x20008457)) ∧
    MappedRam t (u t 6) 8 .write 0x80021FF8 (some (0x80012008, 0x200084D7)) :=
  ⟨by decide +kernel, plainRam_of (by decide +kernel), mappedRam_of (by decide +kernel), mappedRam_of (by decide +kernel)⟩

theorem witness_AmoResults :
    let s := start .rv32 .machine [(6, 0x8FFFFFFC)]
    let t := sv39 .user 0x20008417 [(6, 0x1FF8)]
    ((amoForm (.amomaxW 5 6 7 false false)).isSome = true ∧ (Instr.amomaxW 5 6 7 false false).wf s.cfg.xlen = true ∧
      u s 6 % 4 = 0 ∧ u t 6 % 4 = 0) ∧ PlainRam s (u s 6) 4 ∧
    MappedRam t (u t 6) 4 .write 0x80021FF8 (some (0x80012008, 0x200084D7)) :=
  ⟨by decide +kernel, plainRam_of (by decide +kernel), mappedRam_of (by decide +kernel)⟩

/-- A misaligned address, aligned ones that land outside every region, without and with translation, and one whose walk faults. -/
theorem witness_AtomicFaults :
    let s := start .rv64 .machine [(6, 0x80000004)]
    let t := { start .rv64 .machine [(6, 0x90000000)] with resv := true }
    let w := { sv39 .user 0 [(6, 0x1FF8)] with resv := true }
    let v := { sv39 .user 0x1C000017 [(6, 0x1FF8)] with resv := true }
    (lrForm (.lrD 5 6 false false) = some (5, 6, 8) ∧ scForm (.scD 5 6 7 false false) = some (5, 6, 7, 8) ∧
      (amoForm (.amoaddD 5 6 7 false false)).map (·.bytes) = some 8 ∧ (Instr.amoaddD 5 6 7 false false).wf s.cfg.xlen = true ∧
      (Instr.lrD 5 6 false false).wf s.cfg.xlen = true ∧ (Instr.scD 5 6 7 false false).wf s.cfg.xlen = true ∧ u s 6 % 8 ≠ 0) ∧
    (u t 6 = 0x90000000 ∧ u t 6 % 8 = 0 ∧ t.resv = true ∧ t.cfg.inPlic 0x90000000 8 = false ∧
      t.cfg.regionOf 0x90000000 8 = none) ∧
    LandsOutside t 0x90000000 8 .read 0x90000000 none ∧ LandsOutside t 0x90000000 8 .write 0x90000000 none ∧
    (u v 6 % 8 = 0 ∧ v.resv = true ∧ v.cfg.inPlic 0x70000FF8 8 = false ∧ v.cfg.regionOf 0x70000FF8 8 = none) ∧
    LandsOutside v 0x1FF8 8 .read 0x70000FF8 (some (0x80012008, 0x1C000057)) ∧
    LandsOutside v 0x1FF8 8 .write 0x70000FF8 (some (0x80012008, 0x1C0000D7)) ∧
    (u w 6 % 8 = 0 ∧ w.resv = true ∧ WalkFaults w (u w 6) .read (.pageFault .read) ∧
      WalkFaults w (u w 6) .write (.pageFault .write)) :=
  ⟨by decide +kernel, by decide +kernel, landsOutside_of (by decide +kernel), landsOutside_of (by decide +kernel), by decide +kernel,
    landsOutside_of (by decide +kernel), landsOutside_of (by decide +kernel), by unfold WalkFaults; decide +kernel⟩

theorem witness_ReadWriteCsrAccess :
    let s := start .rv32 .supervisor [(6, 0x1234)]
    (csrForm s (.csrrw 5 6 0x140) = some (5, 0x140, .swap, 0x1234) ∧ ((0x140#12).extractLsb' 8 2).toNat ≤ s.priv.code ∧
      csrPolicy s.cfg ((0x140#12).extractLsb' 8 2) ((0x140#12).extractLsb' 0 8) = .rw) ∧ WidthOk s :=
  ⟨by decide +kernel, widthOk_of (by decide +kernel)⟩

/-- Below the bank's privilege; an entry that is not listed; misa with a new value and with its own. -/
theorem witness_RejectedCsrAccess :
    let s := start .rv64 .user [(6, 1), (7, 0x8000000000141105)]
    let t := start .rv64 .machine [(6, 1), (7, 0x8000000000141105)]
    (csrForm s (.csrrs 5 0 0x300) = some (5, 0x300, .setBits, 0) ∧ s.priv.code < ((0x300#12).extractLsb' 8 2).toNat) ∧
    (csrForm t (.csrrc 5 0 0xC00) = some (5, 0xC00, .clearBits, 0) ∧
      csrPolicy t.cfg ((0xC00#12).extractLsb' 8 2) ((0xC00#12).extractLsb' 0 8) = .ill ∧
      ∀ e ∈ t.cfg.csrConfig, ¬(e.bank = (0xC00#12).extractLsb' 8 2 ∧ e.id = (0xC00#12).extractLsb' 0 8)) ∧
    (csrForm t (.csrrw 5 6 0x301) = some (5, 0x301, .swap, 1) ∧
      csrPolicy t.cfg ((0x301#12).extractLsb' 8 2) ((0x301#12).extractLsb' 0 8) = .ro ∧
      newBit .swap (t.csrAt 769).toNat 1 63 ≠ (t.csrAt 769).getLsbD 63) ∧
    (csrForm t (.csrrw 5 7 0x301) = some (5, 0x301, .swap, 0x8000000000141105) ∧
      (∀ j, j < 64 → newBit .swap (t.csrAt 769).toNat 0x8000000000141105 j = (t.csrAt 769).getLsbD j) ∧
      ((0x301#12).extractLsb' 8 2).toNat ≤ t.priv.code) ∧ WidthOk s ∧ WidthOk t :=
  ⟨by decide +kernel, by decide +kernel, by decide +kernel, by decide +kernel, widthOk_of (by decide +kernel),
    widthOk_of (by decide +kernel)⟩

theorem witness_ViewsOfTheReferenceCsrs :
    let s := start .rv64 .machine [(6, 0xFFFFFFFFFFFFFFFF)]
    ((∀ a ∈ [0x100#12, 0x104#12, 0x344#12, 0x144#12], csrForm s (.csrrw 5 6 a) = some (5, a, .swap, 0xFFFFFFFFFFFFFFFF) ∧
      (a.extractLsb' 8 2).toNat ≤ s.priv.code) ∧ s.cfg.csrConfig = referenceCsrs s.cfg.xlen) ∧ WidthOk s :=
  ⟨by decide +kernel, widthOk_of (by decide +kernel)⟩

/-- A write of each mode, one that is not supported (1) among them. -/
theorem witness_SatpWrites :
    let s := start .rv64 .supervisor [(5, 0), (6, 0x1000000000000000), (7, 0x8000000000080010), (8, 0x9000000000080010)]
    let t := start .rv32 .supervisor [(6, 0x80000010)]
    (csrForm s (.csrrw 0 5 0x180) = some (0, 0x180, .swap, 0) ∧
      csrForm s (.csrrw 0 6 0x180) = some (0, 0x180, .swap, 0x1000000000000000) ∧
      csrForm s (.csrrw 0 7 0x180) = some (0, 0x180, .swap, 0x8000000000080010) ∧
      csrForm s (.csrrw 0 8 0x180) = some (0, 0x180, .swap, 0x9000000000080010) ∧
      s.cfg.csrConfig = referenceCsrs s.cfg.xlen) ∧ (1 ≤ s.priv.code ∧ (0x180#12).extractLsb' 0 10 = 0x180) ∧
    (csrForm t (.csrrw 0 6 0x180) = some (0, 0x180, .swap, 0x80000010) ∧ t.cfg.csrConfig = referenceCsrs t.cfg.xlen) ∧
    WidthOk s ∧ WidthOk t :=
  ⟨by decide +kernel, by decide +kernel, by decide +kernel, widthOk_of (by decide +kernel), widthOk_of (by decide +kernel)⟩

theorem witness_TrapReturns :
    let m := start .rv64 .machine []
    (start .rv64 .user []).priv = .user ∧ (start .rv64 .supervisor []).priv ≠ .machine ∧ (start .rv64 .supervisor []).priv ≠ .user ∧
    m.priv = .machine ∧ (external m).priv = .machine ∧ (external m).cfg.trapUnit = .external ∧ m.cfg.trapUnit = .reference ∧
    ((withCsr m kMstatus 0x1000).mstatusBit 12 = true ∧ (withCsr m kMstatus 0x1000).mstatusBit 11 = false) ∧
    ((withCsr m kMstatus 0x1800).mstatusBit 12 = true → (withCsr m kMstatus 0x1800).mstatusBit 11 = true) := by decide +kernel

theorem witness_FenceAndWaitPrivilege : (start .rv64 .supervisor []).priv ≠ .user ∧ (start .rv64 .user []).priv = .user := by
  decide +kernel

/-- One entry for each check of a walk, at the first level of the Sv39 tables and at the last; each with the premises of its clause
of WalkChecks. -/
theorem witness_WalkChecks :
    let d := PtMode.sv39.desc
    let l : LevelDesc := ⟨12, 9, 10, 9, 12⟩
    let s (e : Word) := withMem (start .rv64 .supervisor []) 0x80012000 8 e
    let pte (e : Word) := leNat (s e).mem 0x80012000 8
    d.pteSize ≤ 8 ∧ (s 0).cfg.inRam 0x1000 8 = false ∧ (s 0).cfg.inRam 0x80012000 8 = true ∧
    (pte 0).testBit 0 = false ∧ ((pte 5).testBit 1 = false ∧ (pte 5).testBit 2 = true) ∧ pte 0x4000000000000F / 2 ^ 54 ≠ 0 ∧
    ((pte 1).testBit 1 = false ∧ (pte 1).testBit 3 = false ∧ (pte 0x11).testBit 4 = true ∧ (pte 0x41).testBit 6 = true ∧
      (pte 0x81).testBit 7 = true) ∧
    ((pte 0x20004801).testBit 0 = true ∧ (pte 0x20004801).testBit 1 = false ∧ (pte 0x20004801).testBit 2 = false ∧
      (pte 0x20004801).testBit 3 = false ∧ (pte 0x20004801).testBit 4 = false ∧ (pte 0x20004801).testBit 6 = false ∧
      (pte 0x20004801).testBit 7 = false ∧ pte 0x20004801 / 2 ^ 54 = 0) ∧
    ((pte 9).testBit 3 = true ∧ (pte 9).testBit 1 = false ∧ (s 9).mstatusBit 19 = false) ∧
    ((pte 3).testBit 1 = true ∧ (pte 3).testBit 2 = false ∧ (pte 3).testBit 3 = false) ∧
    ((start .rv64 .user []).priv = .user ∧ (pte 3).testBit 4 = false) ∧
    ((s 0x1F).priv = .supervisor ∧ (pte 0x1F).testBit 4 = true ∧ (s 0x1F).mstatusBit 18 = false) ∧
    ∃ m ∈ [l], pte 0x200004CF / 2 ^ m.ppnLo % 2 ^ m.ppnWidth ≠ 0 := by decide +kernel

/-- The code and data pages of 2.10, and a 1 GiB page. -/
theorem witness_LeafTranslation :
    let s := withMem (sv39 .user 0x20008417 []) 0x80010010 8 0x200000DF
    (let pte := leNat s.mem 0x80012008 8
     s.cfg.inRam 0x80012008 8 = true ∧ pte.testBit 0 = true ∧ pte / 2 ^ 54 = 0 ∧ pte / 2 ^ 10 % 2 ^ (9 * 0) = 0 ∧
       pte.testBit 1 = true ∧ pte.testBit 2 = true ∧ pte.testBit 4 = true) ∧
    (let pte := leNat s.mem 0x80012000 8
     pte.testBit 0 = true ∧ pte.testBit 3 = true ∧ pte.testBit 2 = false ∧ pte.testBit 4 = true) ∧
    let pte := leNat s.mem 0x80010010 8
    pte.testBit 0 = true ∧ pte / 2 ^ 54 = 0 ∧ pte / 2 ^ 10 % 2 ^ (9 * 2) = 0 ∧ pte.testBit 1 = true ∧ pte.testBit 4 = true := by
  decide +kernel

theorem witness_TranslationHitsOrWalks :
    let s := sv39 .supervisor 0 []
    s.tlb = [] ∧ s.paging = .virtual ∧ s.ptMode = .sv39 ∧ (start .rv64 .machine []).paging = .bare ∧
    { s with ptMode := .sv48 }.ptMode = .sv48 ∧ 2 ^ 38 ≤ (0x4000000000#64).toNat ∧ (0x4000000000#64).toNat < 2 ^ 64 - 2 ^ 38 ∧
    2 ^ 47 ≤ (0x800000000000#64).toNat ∧ (0x800000000000#64).toNat < 2 ^ 64 - 2 ^ 47 ∧
    (0x3FFFFFFFFF#64).toNat < 2 ^ 38 ∧ 2 ^ 64 - 2 ^ 38 ≤ (0xFFFFFFC000000000#64).toNat ∧
    (0x7FFFFFFFFFFF#64).toNat < 2 ^ 47 ∧ 2 ^ 64 - 2 ^ 47 ≤ (0xFFFF800000000000#64).toNat ∧
    { s with ptMode := .sv32 }.ptMode = .sv32 := by decide +kernel

theorem witness_TlbFillRecordsTheTranslation :
    let s := tlbFill 0x1000 .read 0x80021000 (sv39 .user 0 [])
    s.cfg.inRam 0x80021FFF 1 = true ∧ s.cfg.inRam 0x0C000000 1 = false ∧ s.tlb.length = 1 ∧
    s.tlb.Pairwise (fun a b => a.tag ≠ b.tag) ∧ (∀ e ∈ s.tlb, s.cfg.inRam (e.ppage * 4096) 4096 = true) ∧ s.paging ≠ .bare ∧
    ∃ f ∈ s.tlb, f.tag = s.tlbTag 0x1FFF ∧ f.ppage = 0x80021FFF / 4096 ∧ f.allows .read = true := by decide +kernel

theorem witness_PlicRaise : 32 ≤ plicState.cfg.plicSources ∧ 1 ≤ 31 ∧ 31 < plicState.cfg.plicSources ∧ 31 < 1024 := by
  decide +kernel

theorem witness_PlicClaimAndComplete :
    let s := (plicRaise 3 plicState).getD plicState
    (s.plic.claimOf 0 ≠ 0 ∧ (s.plic.enables 0).getLsbD (s.plic.claimOf 0) = true ∧
      (s.plic.thresholdOf 0).toNat < (s.plic.prioOf (s.plic.claimOf 0)).toNat) ∧ plicState.plic.claimOf 0 = 0 := by decide +kernel

theorem witness_PlicWindowAccess :
    let c := plicState.cfg
    (plicTarget c .read 0x1004 = none ∧ plicTarget c .write 0xC = some (.priority 3) ∧ plicTarget c .read 0x10 = some (.priority 4) ∧
      plicTarget { c with plicPrioWritable := false } .write 0xC = none ∧ plicTarget c .read 0x201000 = some (.threshold 1) ∧
      plicTarget c .write 0x201004 = some (.claim 1) ∧ plicTarget c .read 0x202000 = none ∧
      plicTarget c .write 0x2080 = some (.enable 1 0) ∧ plicTarget c .write 0x7C = some (.priority 31) ∧
      plicTarget c .write 0x80 = none) ∧
    (let l := { c with plicSources := 1024, plicContexts := 15872 }
     c.wf = true ∧ l.wf = true ∧ plicRegAt l 0xFFC = some (.priority 1023) ∧ plicRegAt l 0x107C = some (.pending 31) ∧
       plicRegAt l 0x1080 = none ∧ plicRegAt l 0x1F1FFC = some (.enable 15871 31) ∧ plicRegAt l 0x1F2000 = none ∧
       plicRegAt l 0x3FFF000 = some (.threshold 15871) ∧ plicRegAt l 0x3FFF004 = some (.claim 15871)) ∧
    plicState.callbacks = [] ∧ { plicState with callbacks := [⟨[3], [7]⟩] }.callbacks = ⟨[3], [7]⟩ :: [] := by decide +kernel

theorem witness_PlicRegisters :
    plicState.cfg.plicSources ≤ 1024 ∧ { plicState.cfg with plicPrioWritable := false }.plicPrioWritable = false := by decide +kernel

theorem witness_ResetState :
    let c := { Config.reference .rv64 with plicPrioInit := [(1, 7), (31, 2)] }
    let image : List Host.Cell := [(0x80000000, 0x13), (0x8FFFFFFF, 1)]
    c.plicPrioInit.Pairwise (fun a b => a.1 ≠ b.1) ∧ c.csrConfig.Pairwise (fun a b => a.key ≠ b.key) ∧
    image.Pairwise (fun a b => a.1 ≠ b.1) ∧ c.inRam 0x80000000 1 = true ∧ c.inRam 0x8FFFFFFF 1 = true := by decide +kernel

/-- A state of the reference machine that meets every invariant and has a next state: the premises of
MemoryFormAndConfigurationAreKept, WidthsAreKept, TranslationStateIsKept, SatpMirrorAndIpAreKept, ReferenceMachineIsKept and
PlicStateIsKept. -/
theorem witness_invariants :
    let s := (start .rv64 .supervisor [(5, 1)]).withFetchWord 32 0x00128313
    (∃ t, step s = .next t) ∧ MemoryOk s ∧ WidthOk s ∧ PagingOk s ∧ TlbOk s ∧ (ReferenceCsrs s ∧ SatpMirror s ∧ IpOk s) ∧
    (s.cfg.trapUnit = .reference ∧ ReadOnlyCsrs s ∧ PcEven s ∧ s.runState = .running) ∧ PlicOk s := by
  refine ⟨?_, ⟨by decide +kernel, by decide +kernel⟩, widthOk_of (by decide +kernel), by unfold PagingOk; decide +kernel,
    tlbOk_of_empty (by decide +kernel), ?_, ?_, ?_⟩
  · have h : after (start .rv64 .supervisor [(5, 1)]) 32 0x00128313 (fun t => (t.x 6).toNat) = some 2 := by decide +kernel
    unfold after at h
    split at h
    · exact ⟨_, ‹_›⟩
    · cases h
  · exact ⟨by unfold ReferenceCsrs; decide +kernel, by unfold SatpMirror; decide +kernel, by unfold IpOk; decide +kernel⟩
  · exact ⟨by decide +kernel, ⟨by decide +kernel, by decide +kernel, by decide +kernel, by decide +kernel, by decide +kernel⟩,
      by unfold PcEven; decide +kernel, by decide +kernel⟩
  · have h : ((start .rv64 .supervisor [(5, 1)]).withFetchWord 32 0x00128313).plic = ⟨[], 0, [], [], [], []⟩ := by decide +kernel
    refine ⟨fun i hi => ?_, fun c => ?_⟩
    · rw [h] at hi; simp [Plic.isPending] at hi
    · rw [h]; exact (by decide +kernel : 0 < ((start .rv64 .supervisor [(5, 1)]).withFetchWord 32 0x00128313).cfg.plicSources)

/-- An instruction that does not store, and one in each lower mode with an external trap unit. -/
theorem witness_OnlyAtomicsAndStoresChangeTheReservation :
    storing (.add 5 6 7) = false ∧ lrForm (.add 5 6 7) = none ∧
    ∃ t, exec (.add 5 6 7) (start .rv64 .machine []) = .next t := ⟨by decide, by decide, _, rfl⟩

theorem witness_OnlyStoringInstructionsWriteRam :
    let s := sv39 .user 0x20008417 [(6, 0x1FF8)]
    (storing (.add 5 6 7) = false ∧ loadForm (.add 5 6 7) = none ∧ lrForm (.add 5 6 7) = none ∧
      (start .rv64 .machine []).paging = .bare ∧ { Config.reference .rv64 with adUpdate := false }.adUpdate = false) ∧
    (∃ t, exec (.add 5 6 7) (start .rv64 .machine []) = .next t) ∧
    (storing (.ld 5 6 0) = false ∧ loadForm (.ld 5 6 0) = some ⟨5, 6, 0, 8, true, 4⟩ ∧ storing (.lrD 5 6 false false) = false ∧
      lrForm (.lrD 5 6 false false) = some (5, 6, 8)) ∧
    (∃ t, exec (.ld 5 6 0) s = .next t) ∧ ∃ t, exec (.lrD 5 6 false false) s = .next t :=
  ⟨by decide +kernel, ⟨_, rfl⟩, by decide, exec_next _ _, exec_next _ _⟩

theorem witness_LowerModesCannotWriteMachineCsrs :
    let s := external (start .rv64 .supervisor [])
    let t := external (start .rv64 .user [])
    (ReferenceCsrs s ∧ s.cfg.trapUnit = .external ∧ s.priv = .supervisor) ∧ (ReferenceCsrs t ∧ t.priv = .user) ∧
    (WidthOk s ∧ WidthOk t) ∧ (∃ r, exec (.add 5 6 7) s = .next r) ∧ ∃ r, exec (.add 5 6 7) t = .next r :=
  ⟨⟨by unfold ReferenceCsrs; decide +kernel, by decide +kernel, by decide +kernel⟩,
    ⟨by unfold ReferenceCsrs; decide +kernel, by decide +kernel⟩, ⟨widthOk_of (by decide +kernel), widthOk_of (by decide +kernel)⟩,
    ⟨_, rfl⟩, ⟨_, rfl⟩⟩

end Sys2Proof.Tests
end

section
/-! PROOFS. The form of memory and the configuration (R15, R200, R241); refused and halted steps (R21, R106, R910). -/

namespace Sys2Proof.Machine

/-- The configuration is as before (R15), and RAM keeps its form (R200). -/
def MemoryKept (s t : State) : Prop := t.cfg = s.cfg ∧ (MemoryOk s → MemoryOk t)

theorem MemoryOk.congr {s t : State} (hc : t.cfg = s.cfg) (hm : t.mem = s.mem) (h : MemoryOk s) : MemoryOk t :=
  ⟨hm ▸ h.canonical, hc ▸ hm ▸ h.inside⟩

theorem MemoryKept.of_eq {s t : State} (h : t.cfg = s.cfg ∧ t.mem = s.mem) : MemoryKept s t := ⟨h.1, MemoryOk.congr h.1 h.2⟩

/-- A write inside RAM lists no address outside it. -/
theorem MemoryKept.writeLE (s : State) (p n : Nat) (v : Word) (hr : s.cfg.inRam p n = true) :
    MemoryKept s { s with mem := Memory.writeLE s.mem p n v } := by
  refine ⟨rfl, fun h => ⟨Memory.wf_writeLE _ _ _ _ h.canonical, fun c hc => ?_⟩⟩
  rcases Memory.mem_writeLE _ _ _ _ _ hc with ⟨hlo, hhi⟩ | hc
  · exact inRam_part hr hlo (by omega)
  · exact h.inside c hc

/-- Stores and the walker's write-back are the only updates of RAM, and both are inside it; every other update has a frame. -/
theorem stepKept_memory : StepKept MemoryKept where
  refl _ := .of_eq ⟨rfl, rfl⟩
  trans h h' := ⟨h'.1.trans h.1, h'.2 ∘ h.2⟩
  tick _ := .of_eq (by simp)
  fill _ _ _ _ _ := .of_eq (by simp)
  pte s p v _ _ hr := .writeLE s p _ v hr
  plic s off n acc data := .of_eq (by rw [plicAccess_frame off n acc data s]; simp)
  device s q := .of_eq (by rw [deviceAccess_frame q s]; simp)
  store _ s p n v hr := .writeLE s p n v hr
  setX _ _ _ := .of_eq (by simp)
  setPc _ _ _ := .of_eq (by simp)
  resv _ _ _ := .of_eq ⟨rfl, rfl⟩
  flush _ := .of_eq (by simp)
  csr _ _ _ _ _ h := .of_eq (by rw [csrAccess_frame h]; simp)
  raise c v s := .of_eq (by rw [raise_frame c v s]; simp)
  xret l s := .of_eq (by rw [requestXret_frame l s]; simp)
  turns _ _ := .of_eq ⟨rfl, rfl⟩
  interrupt i s := .of_eq (by rw [takeInterrupt_frame i s]; simp)
  agent m s := by
    obtain ⟨hc, -, hm, -⟩ := agentMove_frame m s
    exact .of_eq ⟨hc, hm⟩

/-! ### Refused and halted -/

/-- A well-formed machine is never refused: where it answers no next state it is stuck (`step_stuck`). -/
theorem step_refused_iff (s : State) : (∃ r, step s = .refused r) ↔ s.cfg.wf = false := by
  constructor
  · rintro ⟨r, hr⟩
    by_contra hw
    obtain ⟨-, -, hf⟩ := step_stuck (by simpa using hw) fun t ht => by simp [hr] at ht
    simp [hr] at hf
  · intro hw
    exact ⟨.illFormedConfig, by simp [step, hw]⟩

theorem step_of_halted {s : State} (hw : s.cfg.wf = true) (hr : s.runState ≠ .running) (ht : s.turns = []) :
    step s = .fault .hartHalted := by
  simp [step, hw, hr, ht]

theorem step_of_halted_turn {s : State} {l : List Turn} (hw : s.cfg.wf = true) (hr : s.runState ≠ .running)
    (ht : s.turns = .hart :: l) : step s = .next { s with turns := l } := by
  simp [step, hw, hr, ht]

end Sys2Proof.Machine

namespace Sys2Proof.Proofs

open Sys2Proof.Machine

/-- Settles O51: a step is made of updates that each keep the configuration and RAM's form. -/
theorem memoryFormAndConfigurationAreKept : Obligations.MemoryFormAndConfigurationAreKept := fun _ _ h =>
  stepKept_memory.step h

/-- Settles O10, by the branches of `step`. -/
theorem refusedAndHaltedSteps : Obligations.RefusedAndHaltedSteps := fun s =>
  ⟨step_refused_iff s, fun hw hr => ⟨step_of_halted hw hr, fun _ => step_of_halted_turn hw hr⟩⟩

end Sys2Proof.Proofs
end

section
/-! PROOFS. A raise in the vocabulary of the statements (R910, R911, R921-R924): the report of an external trap unit, the entry of
the reference one. -/

namespace Sys2Proof.Machine

open Sys2Proof.Spec

/-- The target of a trap that is no interrupt is the vector's base, in MODE 1 too (R921, R923). -/
theorem trapTarget_none (tvec : Word) : trapTarget tvec none = tvecBase tvec := by
  rw [BitVec.toNat_eq]
  show (tvec &&& ~~~3#64).toNat = _
  rw [clear3_toNat, tvecBase, BitVec.toNat_ofNat]
  omega

/-! ### The saved registers after entry to M -/

theorem enterM_mtval (cv tval : Word) (i : Option Nat) (s : State) :
    (enterM cv tval i s).csrAt kMtval = s.cfg.xlen.trunc tval := by
  rw [enterM_csrAt, if_neg (by decide), if_pos rfl]

theorem enterM_mcause (cv tval : Word) (i : Option Nat) (s : State) :
    (enterM cv tval i s).csrAt kMcause = s.cfg.xlen.trunc cv := by
  rw [enterM_csrAt, if_neg (by decide), if_neg (by decide), if_pos rfl]

theorem enterM_mepc (cv tval : Word) (i : Option Nat) (s : State) :
    (enterM cv tval i s).csrAt kMepc = s.cfg.xlen.trunc s.pc := by
  rw [enterM_csrAt, if_neg (by decide), if_neg (by decide), if_neg (by decide), if_pos rfl]

/-! ### The saved registers after entry to S -/

theorem enterS_stval (cv tval : Word) (i : Option Nat) (s : State) :
    (enterS cv tval i s).csrAt kStval = s.cfg.xlen.trunc tval := by
  rw [enterS_csrAt, if_neg (by decide), if_pos rfl]

theorem enterS_scause (cv tval : Word) (i : Option Nat) (s : State) :
    (enterS cv tval i s).csrAt kScause = s.cfg.xlen.trunc cv := by
  rw [enterS_csrAt, if_neg (by decide), if_neg (by decide), if_pos rfl]

theorem enterS_sepc (cv tval : Word) (i : Option Nat) (s : State) :
    (enterS cv tval i s).csrAt kSepc = s.cfg.xlen.trunc s.pc := by
  rw [enterS_csrAt, if_neg (by decide), if_neg (by decide), if_neg (by decide), if_pos rfl]

/-! ### Entries and raises -/

/-- A trap entry leaves the frame of R924: what it may change is `TrapOnly`, and the paging flag and the TLB follow R108. -/
theorem trapFrame_of_trapOnly {s t : State} (h : TrapOnly s t) (hp : t.paging = pagingOf t.priv s.ptMode)
    (ht : t.tlb = if pagingOf t.priv s.ptMode = s.paging then s.tlb else []) :
    TrapFrame s { t with runState := .running } := by
  have hm : t.ptMode = s.ptMode := by rw [h]
  exact ⟨h.running, rfl, by simp [hp, hm], by simp [hp, ht]⟩

/-- Entry to M, with the hart running again. -/
theorem enterM_entersM (cv tval : Word) (i : Option Nat) (s : State) :
    EntersM s { enterM cv tval i s with runState := .running } cv tval (trapTarget (s.csrAt kMtvec) i) where
  rest := trapFrame_of_trapOnly (enterM_frame cv tval i s) (by simp [pagingOf]) (by rw [enterM_priv, enterM_tlb])
  priv := enterM_priv s cv tval i
  pc := enterM_pc cv tval i s
  mepc := enterM_mepc cv tval i s
  mcause := enterM_mcause cv tval i s
  mtval := enterM_mtval cv tval i s
  mstatus := enterM_mstatus cv tval i s
  others k hk := by
    simp only [List.mem_cons, not_or] at hk
    exact (enterM_csrAt cv tval i s k).trans (by simp [hk])

/-- Entry to S, with the hart running again. -/
theorem enterS_entersS (cv tval : Word) (i : Option Nat) (s : State) :
    EntersS s { enterS cv tval i s with runState := .running } cv tval (trapTarget (s.csrAt kStvec) i) where
  rest := trapFrame_of_trapOnly (enterS_frame cv tval i s) (by simp) (by rw [enterS_priv, enterS_tlb])
  priv := enterS_priv s cv tval i
  pc := enterS_pc cv tval i s
  sepc := enterS_sepc cv tval i s
  scause := enterS_scause cv tval i s
  stval := enterS_stval cv tval i s
  mstatus := enterS_mstatus cv tval i s
  others k hk := by
    simp only [List.mem_cons, not_or] at hk
    exact (enterS_csrAt cv tval i s k).trans (by simp [hk])

/-- Exception entry (R921, R923). -/
theorem takeException_enters (c : Cause) (tval : Word) (s : State) : EntersException s (takeException c tval s) c.code tval := by
  unfold EntersException takeException
  simp only [← trapTarget_none]
  split
  · exact enterS_entersS _ tval none s
  · exact enterM_entersM _ tval none s

/-- A raise, for either trap unit (R910, R911). -/
theorem raise_raises (c : Cause) (tval : Word) (s : State) : Raises s (raise c tval s) c tval := by
  unfold Raises raise
  cases s.cfg.trapUnit with
  | external => rfl
  | reference => exact takeException_enters c tval s

/-- An instruction that ends in `fail` raises. -/
theorem execRaises_of_fail {i : Instr} {s m : State} {c : Cause} {tval : Word} (h : exec i s = fail c tval m) :
    ExecRaises i s m c tval := ⟨_, h, raise_raises c tval m⟩

end Sys2Proof.Machine
end

section
/-! PROOFS. The memory instructions by their forms: the shared operation that each is, with the numbers of the statements for the
model's words; and the ends of an instruction as `retired` and `goesTo`. -/

namespace Sys2Proof.Machine

open Sys2Proof.Spec

/-! ### Numbers -/

/-- A number modulo 2^XLEN as a word (R31). -/
theorem asWord_eq (s : State) (v : Int) : asWord s v = s.cfg.xlen.trunc (BitVec.ofInt 64 v) := by
  rw [Xlen.trunc_ofInt, asWord, modulus]
  norm_cast

theorem modulus_le (s : State) : modulus s ≤ 2 ^ 64 := Nat.pow_le_pow_right (by decide) s.cfg.xlen.bits_le

theorem modulus_pos (s : State) : 0 < modulus s := Nat.two_pow_pos _

theorem u_lt (s : State) (r : RegIdx) : u s r < 2 ^ 64 := Nat.lt_of_lt_of_le (Nat.mod_lt _ (modulus_pos s)) (modulus_le s)

theorem addr_lt (s : State) (r : RegIdx) (o : Int) : addr s r o < 2 ^ 64 := by
  have hm := modulus_pos s
  have hle := modulus_le s
  have hlt := Int.emod_lt_of_pos (u s r + o) (b := modulus s) (by omega)
  have hnn := Int.emod_nonneg (u s r + o) (b := modulus s) (by omega)
  unfold addr
  omega

/-- The sum of a register and an offset, modulo 2^XLEN, is the effective address (R500). -/
theorem effAddr_eq {s : State} {r : RegIdx} {off : Word} {o : Int} (h : s.cfg.xlen.trunc off = asWord s o) :
    effAddr r off s = BitVec.ofNat 64 (addr s r o) := by
  have hx : s.cfg.xlen.trunc (s.x r) = BitVec.ofNat 64 (u s r) := by
    rw [BitVec.toNat_eq, Xlen.trunc_toNat, BitVec.toNat_ofNat, Nat.mod_eq_of_lt (u_lt s r)]
    rfl
  have hsum : effAddr r off s = s.cfg.xlen.trunc (BitVec.ofInt 64 (u s r + o)) := by
    rw [effAddr, ← Xlen.trunc_add, BitVec.add_comm, ← Xlen.trunc_add, h, asWord_eq, Xlen.trunc_add, hx, BitVec.add_comm,
      BitVec.ofInt_add, BitVec.ofInt_natCast]
  have hnn := Int.emod_nonneg (u s r + o) (b := modulus s) (by have := modulus_pos s; omega)
  rw [hsum, ← asWord_eq, asWord, ← BitVec.ofInt_natCast, addr, Int.toNat_of_nonneg hnn]

/-- The address of an atomic is its register's value (R610-R632). -/
theorem effAddr_zero (r : RegIdx) (s : State) : effAddr r 0 s = BitVec.ofNat 64 (u s r) := by
  rw [BitVec.toNat_eq, effAddr, Xlen.trunc_toNat, BitVec.toNat_ofNat, Nat.mod_eq_of_lt (u_lt s r)]
  exact congrArg (fun w : Word => w.toNat % 2 ^ s.cfg.xlen.bits) (BitVec.add_zero (s.x r))

/-! ### Ends of an instruction -/

theorem pcPlus_eq (s : State) (len : Nat) : s.cfg.xlen.trunc (s.pc + BitVec.ofNat 64 len) = asWord s (s.pc.toNat + len) := by
  rw [asWord_eq, BitVec.ofInt_add, BitVec.ofInt_natCast, BitVec.ofInt_natCast, BitVec.ofNat_toNat, BitVec.setWidth_eq]

theorem writeBack_retired {s : State} {v : Word} {x : Int} (h : s.cfg.xlen.trunc v = asWord s x) (rd : RegIdx) (len : Nat) :
    writeBack rd v len s = .next (retired s rd x len) := by
  rw [writeBack_eq, h, pcPlus_eq]
  rfl

theorem noEffect_goesTo (len : Nat) (s : State) : noEffect len s = .next (goesTo s (s.pc.toNat + len)) := by
  rw [noEffect_eq, pcPlus_eq]
  rfl

/-- After a completed store the reservation and the count of free values are all that is new (R602). -/
theorem storeDone_eq (s : State) : storeDone s = { s with resv := (storeDone s).resv, free := (storeDone s).free } := by
  unfold storeDone
  split <;> rfl

theorem resvAfterStore_storeDone (s : State) : ResvAfterStore s (storeDone s) := by
  unfold ResvAfterStore storeDone
  cases s.cfg.resvPolicy <;> simp +contextual

theorem resvAfterStore_congr {s t t' : State} (h : ResvAfterStore s t) (e : t'.resv = t.resv) : ResvAfterStore s t' := by
  unfold ResvAfterStore at *
  rw [e]
  exact h

/-- A completed store, and the pc's advance. -/
theorem storeDone_noEffect (len : Nat) (m : State) : ∃ t, noEffect len (storeDone m) = .next t ∧ ResvAfterStore m t ∧
    t = { goesTo m (m.pc.toNat + len) with resv := t.resv, free := t.free } := by
  refine ⟨_, noEffect_goesTo len _, resvAfterStore_congr (resvAfterStore_storeDone m) rfl, ?_⟩
  rw [storeDone_eq m]
  rfl

/-- A completed AMO: rd written, and the pc's advance. -/
theorem storeDone_writeBack {m : State} {v : Word} {x : Int} (h : m.cfg.xlen.trunc v = asWord m x) (rd : RegIdx) (len : Nat) :
    ∃ t, writeBack rd v len (storeDone m) = .next t ∧ ResvAfterStore m t ∧
      t = { retired m rd x len with resv := t.resv, free := t.free } := by
  have hv : (storeDone m).cfg.xlen.trunc v = asWord (storeDone m) x := by
    rw [storeDone_eq m]
    exact h
  refine ⟨_, writeBack_retired hv rd len, resvAfterStore_congr (resvAfterStore_storeDone m) rfl, ?_⟩
  rw [storeDone_eq m]
  rfl


/-! ### Loads -/

theorem whenLegal_of_wf {i : Instr} {s : State} (h : i.wf s.cfg.xlen = true) (k : State → Out) : whenLegal i s k = k s := if_pos h

theorem trunc_sext_asWord (s : State) {n : Nat} (v : BitVec n) : s.cfg.xlen.trunc (s.cfg.xlen.sext v) = asWord s v.toInt := by
  rw [Xlen.trunc_sext, Xlen.sext, asWord_eq, BitVec.signExtend]

theorem trunc_asWord_of_toNat (s : State) {w : Word} {n : Nat} (h : w.toNat = n) : s.cfg.xlen.trunc w = asWord s n := by
  rw [asWord_eq, ← h, ofInt_toNat]

theorem trunc_uimm4_asWord (s : State) {n : Nat} (h : n ≤ 62) (v : BitVec n) :
    s.cfg.xlen.trunc (uimm4 v) = asWord s (v.toNat * 4) := trunc_asWord_of_toNat s (uimm4_toNat h v)

theorem trunc_uimm8_asWord (s : State) {n : Nat} (h : n ≤ 61) (v : BitVec n) :
    s.cfg.xlen.trunc (uimm8 v) = asWord s (v.toNat * 8) := trunc_asWord_of_toNat s (uimm8_toNat h v)

/-- The kinds of loads that sign-extend (R501-R504). -/
def LoadKind.signed : LoadKind → Bool
  | .b | .h | .w | .d => true
  | .bu | .hu | .wu => false

/-- The low `n` bytes of a word, sign-extended, as a number. -/
theorem signExtend_low (v : Word) (n k : Nat) (h : 256 ^ n = 2 ^ k) :
    (low k v).signExtend 64 = BitVec.ofInt 64 (Int.bmod v.toNat (256 ^ n)) := by
  rw [BitVec.signExtend, low, BitVec.toInt_eq_toNat_bmod, BitVec.toNat_setWidth, h, Int.natCast_emod, Int.emod_bmod]

/-- The low `n` bytes of a word of `n` bytes. -/
theorem zext_low (v : Word) (n k : Nat) (h : 256 ^ n = 2 ^ k) (hv : v.toNat < 256 ^ n) :
    zext (low k v) = BitVec.ofInt 64 v.toNat := by
  rw [ofInt_toNat, BitVec.toNat_eq, zext, low, BitVec.toNat_setWidth, BitVec.toNat_setWidth, ← h, Nat.mod_eq_of_lt hv,
    Nat.mod_eq_of_lt v.isLt]

/-- The register value of a load, as a number (R501-R507). -/
theorem trunc_loadValue (s : State) (k : LoadKind) {v : Word} (hv : v.toNat < 256 ^ loadSize k) :
    s.cfg.xlen.trunc (loadValue k s.cfg.xlen v) =
      asWord s (if k.signed then Int.bmod v.toNat (256 ^ loadSize k) else v.toNat) := by
  have signed : ∀ n j, 256 ^ n = 2 ^ j →
      s.cfg.xlen.trunc (s.cfg.xlen.sext (low j v)) = asWord s (Int.bmod v.toNat (256 ^ n)) := fun n j h => by
    rw [Xlen.trunc_sext, Xlen.sext, signExtend_low v n j h, asWord_eq]
  have unsigned : ∀ n j, 256 ^ n = 2 ^ j → v.toNat < 256 ^ n → s.cfg.xlen.trunc (zext (low j v)) = asWord s v.toNat :=
    fun n j h hv => by rw [zext_low v n j h hv, asWord_eq]
  cases k <;> simp only [loadValue, LoadKind.signed, loadSize, ↓reduceIte, Bool.false_eq_true]
  case b => exact signed 1 8 rfl
  case h => exact signed 2 16 rfl
  case w => exact signed 4 32 rfl
  case d => rw [asWord_eq, ← signExtend_low v 8 64 rfl, low, BitVec.setWidth_eq, BitVec.signExtend_eq]
  case bu => exact unsigned 1 8 rfl hv
  case hu => exact unsigned 2 16 rfl hv
  case wu => exact unsigned 4 32 rfl hv

/-- The load `i` of the form `f` in the state `s` is `doLoad` of the kind `k` with the offset `off`. -/
structure IsLoad (s : State) (i : Instr) (f : LoadForm) (k : LoadKind) (off : Word) : Prop where
  exec : exec i s = doLoad k f.rd f.base off f.len s
  bytes : loadSize k = f.bytes
  signed : k.signed = f.signed
  offset : s.cfg.xlen.trunc off = asWord s f.off

/-- Every load is `doLoad` (R500-R507, R752, R753, R776, R777). -/
theorem exists_isLoad {i : Instr} {f : LoadForm} {s : State} (h : loadForm i = some f) (hw : i.wf s.cfg.xlen = true) :
    ∃ k off, IsLoad s i f k off := by
  cases i with
  | lb rd rs1 imm => cases h; exact ⟨.b, _, exec_lb rd rs1 imm s, rfl, rfl, trunc_sext_asWord s imm⟩
  | lh rd rs1 imm => cases h; exact ⟨.h, _, exec_lh rd rs1 imm s, rfl, rfl, trunc_sext_asWord s imm⟩
  | lw rd rs1 imm => cases h; exact ⟨.w, _, exec_lw rd rs1 imm s, rfl, rfl, trunc_sext_asWord s imm⟩
  | ld rd rs1 imm =>
    cases h
    exact ⟨.d, _, (exec_ld rd rs1 imm s).trans (whenLegal_of_wf hw _), rfl, rfl, trunc_sext_asWord s imm⟩
  | lbu rd rs1 imm => cases h; exact ⟨.bu, _, exec_lbu rd rs1 imm s, rfl, rfl, trunc_sext_asWord s imm⟩
  | lhu rd rs1 imm => cases h; exact ⟨.hu, _, exec_lhu rd rs1 imm s, rfl, rfl, trunc_sext_asWord s imm⟩
  | lwu rd rs1 imm =>
    cases h
    exact ⟨.wu, _, (exec_lwu rd rs1 imm s).trans (whenLegal_of_wf hw _), rfl, rfl, trunc_sext_asWord s imm⟩
  | cLw rd rs1 imm => cases h; exact ⟨.w, _, exec_cLw rd rs1 imm s, rfl, rfl, trunc_uimm4_asWord s (by decide) imm⟩
  | cLd rd rs1 imm =>
    cases h
    exact ⟨.d, _, (exec_cLd rd rs1 imm s).trans (whenLegal_of_wf hw _), rfl, rfl, trunc_uimm8_asWord s (by decide) imm⟩
  | cLwsp rd imm =>
    cases h
    exact ⟨.w, _, (exec_cLwsp rd imm s).trans (whenLegal_of_wf hw _), rfl, rfl, trunc_uimm4_asWord s (by decide) imm⟩
  | cLdsp rd imm =>
    cases h
    exact ⟨.d, _, (exec_cLdsp rd imm s).trans (whenLegal_of_wf hw _), rfl, rfl, trunc_uimm8_asWord s (by decide) imm⟩
  | _ => cases h

/-- A load whose read answers (R500). -/
theorem exec_load_ok {i : Instr} {f : LoadForm} {s m : State} {v : Word} (h : loadForm i = some f) (hw : i.wf s.cfg.xlen = true)
    (hr : memRead (BitVec.ofNat 64 (addr s f.base f.off)) f.bytes s = .ok v m) (hv : v.toNat < 256 ^ f.bytes) :
    exec i s = .next (retired m f.rd (f.value v.toNat) f.len) := by
  obtain ⟨k, off, he, hb, hs, ho⟩ := exists_isLoad h hw
  rw [he, doLoad, effAddr_eq ho, hb, hr, LoadForm.value, ← hs]
  rw [← hb] at hv ⊢
  exact writeBack_retired (trunc_loadValue m k hv) f.rd f.len

/-- A load whose read raises (R500). -/
theorem exec_load_trap {i : Instr} {f : LoadForm} {s m : State} {c : Cause} {tval : Word} (h : loadForm i = some f)
    (hw : i.wf s.cfg.xlen = true) (hr : memRead (BitVec.ofNat 64 (addr s f.base f.off)) f.bytes s = .trap c tval m) :
    ExecRaises i s m c tval := by
  obtain ⟨k, off, he, hb, -, ho⟩ := exists_isLoad h hw
  exact execRaises_of_fail (by rw [he, doLoad, effAddr_eq ho, hb, hr]; rfl)

/-! ### Stores -/

/-- The store `i` of the form `f` in the state `s` is `doStore` with the offset `off`. -/
structure IsStore (s : State) (i : Instr) (f : StoreForm) (off : Word) : Prop where
  exec : exec i s = doStore f.bytes f.base f.src off f.len s
  offset : s.cfg.xlen.trunc off = asWord s f.off

/-- Every store is `doStore` (R500, R508-R511, R754, R755, R783, R784). -/
theorem exists_isStore {i : Instr} {f : StoreForm} {s : State} (h : storeForm i = some f) (hw : i.wf s.cfg.xlen = true) :
    ∃ off, IsStore s i f off := by
  cases i with
  | sb rs1 rs2 imm => cases h; exact ⟨_, exec_sb rs1 rs2 imm s, trunc_sext_asWord s imm⟩
  | sh rs1 rs2 imm => cases h; exact ⟨_, exec_sh rs1 rs2 imm s, trunc_sext_asWord s imm⟩
  | sw rs1 rs2 imm => cases h; exact ⟨_, exec_sw rs1 rs2 imm s, trunc_sext_asWord s imm⟩
  | sd rs1 rs2 imm => cases h; exact ⟨_, (exec_sd rs1 rs2 imm s).trans (whenLegal_of_wf hw _), trunc_sext_asWord s imm⟩
  | cSw rs1 rs2 imm => cases h; exact ⟨_, exec_cSw rs1 rs2 imm s, trunc_uimm4_asWord s (by decide) imm⟩
  | cSd rs1 rs2 imm =>
    cases h
    exact ⟨_, (exec_cSd rs1 rs2 imm s).trans (whenLegal_of_wf hw _), trunc_uimm8_asWord s (by decide) imm⟩
  | cSwsp rs2 imm => cases h; exact ⟨_, exec_cSwsp rs2 imm s, trunc_uimm4_asWord s (by decide) imm⟩
  | cSdsp rs2 imm => cases h; exact ⟨_, (exec_cSdsp rs2 imm s).trans (whenLegal_of_wf hw _), trunc_uimm8_asWord s (by decide) imm⟩
  | _ => cases h

/-- A store whose write answers, followed by R602 (R500). -/
theorem exec_store_ok {i : Instr} {f : StoreForm} {s m : State} (h : storeForm i = some f) (hw : i.wf s.cfg.xlen = true)
    (hr : memWrite (BitVec.ofNat 64 (addr s f.base f.off)) f.bytes (s.x f.src) s = .ok () m) :
    ∃ t, exec i s = .next t ∧ ResvAfterStore m t ∧
      t = { goesTo m (m.pc.toNat + f.len) with resv := t.resv, free := t.free } := by
  obtain ⟨off, he, ho⟩ := exists_isStore h hw
  rw [he, doStore, effAddr_eq ho, hr]
  exact storeDone_noEffect f.len m

/-- A store whose write raises (R500). -/
theorem exec_store_trap {i : Instr} {f : StoreForm} {s m : State} {c : Cause} {tval : Word} (h : storeForm i = some f)
    (hw : i.wf s.cfg.xlen = true)
    (hr : memWrite (BitVec.ofNat 64 (addr s f.base f.off)) f.bytes (s.x f.src) s = .trap c tval m) :
    ExecRaises i s m c tval := by
  obtain ⟨off, he, ho⟩ := exists_isStore h hw
  exact execRaises_of_fail (by rw [he, doStore, effAddr_eq ho, hr]; rfl)

end Sys2Proof.Machine
end

section
/-! PROOFS. The atomics by their forms (44_atomic.md): the shared operation that each is, the functions of R614-R631 as numbers, and
what an atomic does with what its accesses answer. -/

namespace Sys2Proof.Machine

open Sys2Proof.Spec

/-- A register's value as the address of an aligned atomic (R604). -/
theorem misaligned_u {s : State} {r : RegIdx} {n : Nat} (h : u s r % n = 0) : misaligned (BitVec.ofNat 64 (u s r)) n = false := by
  rw [misaligned, BitVec.toNat_ofNat, Nat.mod_eq_of_lt (u_lt s r), h]
  rfl

/-- The register value of the old bytes, sign-extended (R608). -/
theorem trunc_atomicValue (s : State) {n : Nat} (hn : n = 4 ∨ n = 8) {v : Word} (hv : v.toNat < 256 ^ n) :
    s.cfg.xlen.trunc (atomicValue n s.cfg.xlen v) = asWord s (Int.bmod v.toNat (256 ^ n)) := by
  rcases hn with rfl | rfl
  · simpa only [atomicValue, loadValue, LoadKind.signed, loadSize, ↓reduceIte] using trunc_loadValue s .w hv
  · simpa only [atomicValue, Nat.reduceEqDiff, loadValue, LoadKind.signed, loadSize, ↓reduceIte] using trunc_loadValue s .d hv

/-- An instruction of XLEN = 64 alone (R340). -/
theorem rv64_of_wf {i : Instr} {x : Xlen} (hi : i.rv64Only = true) (hw : i.wf x = true) : x = .rv64 := by
  simp only [Instr.wf, hi, Bool.not_true, Bool.false_or, Bool.and_eq_true, beq_iff_eq] at hw
  exact hw.1

/-! ### LR -/

theorem exec_lrForm {i : Instr} {rd rs1 : RegIdx} {n : Nat} {s : State} (h : lrForm i = some (rd, rs1, n))
    (hw : i.wf s.cfg.xlen = true) : exec i s = doLr n rd rs1 s ∧ (n = 4 ∨ n = 8) := by
  cases i with
  | lrW rd rs1 aq rl => cases h; exact ⟨exec_lrW rd rs1 aq rl s, .inl rfl⟩
  | lrD rd rs1 aq rl => cases h; exact ⟨(exec_lrD rd rs1 aq rl s).trans (whenLegal_of_wf hw _), .inr rfl⟩
  | _ => cases h

/-- An aligned LR whose read answers (R610, R612). -/
theorem exec_lr_ok {i : Instr} {rd rs1 : RegIdx} {n : Nat} {s m : State} {v : Word} (h : lrForm i = some (rd, rs1, n))
    (hw : i.wf s.cfg.xlen = true) (ha : u s rs1 % n = 0) (hr : memRead (BitVec.ofNat 64 (u s rs1)) n s = .ok v m)
    (hv : v.toNat < 256 ^ n) : exec i s = .next { retired m rd (Int.bmod v.toNat (256 ^ n)) 4 with resv := true } := by
  obtain ⟨he, hn⟩ := exec_lrForm h hw
  rw [he, doLr, effAddr_zero, misaligned_u ha, hr]
  exact writeBack_retired (s := { m with resv := true }) (trunc_atomicValue { m with resv := true } hn hv) rd 4

/-- An aligned LR whose read raises (R605). -/
theorem exec_lr_trap {i : Instr} {rd rs1 : RegIdx} {n : Nat} {s m : State} {c : Cause} {tval : Word}
    (h : lrForm i = some (rd, rs1, n)) (hw : i.wf s.cfg.xlen = true) (ha : u s rs1 % n = 0)
    (hr : memRead (BitVec.ofNat 64 (u s rs1)) n s = .trap c tval m) : ExecRaises i s m c tval := by
  obtain ⟨he, -⟩ := exec_lrForm h hw
  exact execRaises_of_fail (by rw [he, doLr, effAddr_zero, misaligned_u ha, hr]; rfl)

/-! ### SC -/

theorem exec_scForm {i : Instr} {rd rs1 rs2 : RegIdx} {n : Nat} {s : State} (h : scForm i = some (rd, rs1, rs2, n))
    (hw : i.wf s.cfg.xlen = true) : exec i s = doSc n rd rs1 rs2 s := by
  cases i with
  | scW rd rs1 rs2 aq rl => cases h; exact exec_scW rd rs1 rs2 aq rl s
  | scD rd rs1 rs2 aq rl => cases h; exact (exec_scD rd rs1 rs2 aq rl s).trans (whenLegal_of_wf hw _)
  | _ => cases h

/-- An aligned SC with the reservation, whose write answers (R611, R613). -/
theorem exec_sc_ok {i : Instr} {rd rs1 rs2 : RegIdx} {n : Nat} {s m : State} (h : scForm i = some (rd, rs1, rs2, n))
    (hw : i.wf s.cfg.xlen = true) (ha : u s rs1 % n = 0) (hs : s.resv = true)
    (hr : memWrite (BitVec.ofNat 64 (u s rs1)) n (s.x rs2) s = .ok () m) :
    exec i s = .next { retired m rd 0 4 with resv := false } := by
  rw [exec_scForm h hw, doSc, effAddr_zero, misaligned_u ha, hs, hr]
  exact writeBack_retired (s := { m with resv := false }) (trunc_asWord_of_toNat _ rfl) rd 4

/-- An aligned SC with the reservation, whose write raises: the reservation is a free value (R605). -/
theorem exec_sc_trap {i : Instr} {rd rs1 rs2 : RegIdx} {n : Nat} {s m : State} {c : Cause} {tval : Word}
    (h : scForm i = some (rd, rs1, rs2, n)) (hw : i.wf s.cfg.xlen = true) (ha : u s rs1 % n = 0) (hs : s.resv = true)
    (hr : memWrite (BitVec.ofNat 64 (u s rs1)) n (s.x rs2) s = .trap c tval m) :
    ∃ b free, ExecRaises i s { m with resv := b, free := free } c tval :=
  ⟨_, _, execRaises_of_fail (by rw [exec_scForm h hw, doSc, effAddr_zero, misaligned_u ha, hs, hr]; rfl)⟩

/-! ### AMOs -/

/-- On `k` bits the function `g` of bit vectors is `op` of their numbers. -/
def Computes (k : Nat) (g : BinOp) (op : Nat → Nat → Nat) : Prop := ∀ a b : BitVec k, (g k a b).toNat = op a.toNat b.toNat

section
variable {n k : Nat}

theorem computes_second : Computes k Alu.second fSwap := fun _ _ => rfl

theorem computes_add (h : 256 ^ n = 2 ^ k) : Computes k Alu.add (fAdd n) := fun a b => by
  rw [fAdd, h]
  exact BitVec.toNat_add a b

theorem computes_xor : Computes k Alu.xor (fun a b => a ^^^ b) := BitVec.toNat_xor

theorem computes_and : Computes k Alu.and (fun a b => a &&& b) := BitVec.toNat_and

theorem computes_or : Computes k Alu.or (fun a b => a ||| b) := BitVec.toNat_or

theorem signedOf_toNat (h : 256 ^ n = 2 ^ k) (a : BitVec k) : signedOf n a.toNat = a.toInt := by
  rw [signedOf, h, toInt_eq_bmod]

theorem computes_min (h : 256 ^ n = 2 ^ k) : Computes k Alu.min (fMin n) := fun a b => by
  rw [fMin, signedOf_toNat h, signedOf_toNat h]
  exact apply_ite BitVec.toNat _ a b

theorem computes_max (h : 256 ^ n = 2 ^ k) : Computes k Alu.max (fMax n) := fun a b => by
  rw [fMax, signedOf_toNat h, signedOf_toNat h]
  exact apply_ite BitVec.toNat _ a b

theorem computes_minu : Computes k Alu.minu fMinu := fun a b => apply_ite BitVec.toNat _ a b

theorem computes_maxu : Computes k Alu.maxu fMaxu := fun a b => apply_ite BitVec.toNat _ a b

end

/-- The AMO `i` of the form `f` in the state `s` is `doAmo` of the function `g`, on 32 bits or, with XLEN = 64, on 64. -/
structure IsAmo (s : State) (i : Instr) (f : AmoForm) (g : BinOp) : Prop where
  exec : exec i s = doAmo f.bytes g f.rd f.rs1 f.rs2 s
  width : (f.bytes = 4 ∧ Computes 32 g f.op) ∨ (f.bytes = 8 ∧ s.cfg.xlen = .rv64 ∧ Computes 64 g f.op)

theorem isAmo_w {s : State} {i : Instr} {rd rs1 rs2 : RegIdx} {op : Nat → Nat → Nat} {g : BinOp}
    (he : exec i s = doAmo 4 g rd rs1 rs2 s) (hg : Computes 32 g op) : ∃ g, IsAmo s i ⟨rd, rs1, rs2, 4, op⟩ g :=
  ⟨g, he, .inl ⟨rfl, hg⟩⟩

theorem isAmo_d {s : State} {i : Instr} {rd rs1 rs2 : RegIdx} {op : Nat → Nat → Nat} {g : BinOp}
    (he : exec i s = whenLegal i s fun s => doAmo 8 g rd rs1 rs2 s) (hi : i.rv64Only = true) (hw : i.wf s.cfg.xlen = true)
    (hg : Computes 64 g op) : ∃ g, IsAmo s i ⟨rd, rs1, rs2, 8, op⟩ g :=
  ⟨g, he.trans (whenLegal_of_wf hw _), .inr ⟨rfl, rv64_of_wf hi hw, hg⟩⟩

/-- Every AMO is `doAmo` (R614-R632). -/
theorem exists_isAmo {i : Instr} {f : AmoForm} {s : State} (h : amoForm i = some f) (hw : i.wf s.cfg.xlen = true) :
    ∃ g, IsAmo s i f g := by
  cases i with
  | amoswapW rd rs1 rs2 aq rl => cases h; exact isAmo_w (exec_amoswapW rd rs1 rs2 aq rl s) computes_second
  | amoaddW rd rs1 rs2 aq rl => cases h; exact isAmo_w (exec_amoaddW rd rs1 rs2 aq rl s) (computes_add rfl)
  | amoxorW rd rs1 rs2 aq rl => cases h; exact isAmo_w (exec_amoxorW rd rs1 rs2 aq rl s) computes_xor
  | amoandW rd rs1 rs2 aq rl => cases h; exact isAmo_w (exec_amoandW rd rs1 rs2 aq rl s) computes_and
  | amoorW rd rs1 rs2 aq rl => cases h; exact isAmo_w (exec_amoorW rd rs1 rs2 aq rl s) computes_or
  | amominW rd rs1 rs2 aq rl => cases h; exact isAmo_w (exec_amominW rd rs1 rs2 aq rl s) (computes_min rfl)
  | amomaxW rd rs1 rs2 aq rl => cases h; exact isAmo_w (exec_amomaxW rd rs1 rs2 aq rl s) (computes_max rfl)
  | amominuW rd rs1 rs2 aq rl => cases h; exact isAmo_w (exec_amominuW rd rs1 rs2 aq rl s) computes_minu
  | amomaxuW rd rs1 rs2 aq rl => cases h; exact isAmo_w (exec_amomaxuW rd rs1 rs2 aq rl s) computes_maxu
  | amoswapD rd rs1 rs2 aq rl => cases h; exact isAmo_d (exec_amoswapD rd rs1 rs2 aq rl s) rfl hw computes_second
  | amoaddD rd rs1 rs2 aq rl => cases h; exact isAmo_d (exec_amoaddD rd rs1 rs2 aq rl s) rfl hw (computes_add rfl)
  | amoxorD rd rs1 rs2 aq rl => cases h; exact isAmo_d (exec_amoxorD rd rs1 rs2 aq rl s) rfl hw computes_xor
  | amoandD rd rs1 rs2 aq rl => cases h; exact isAmo_d (exec_amoandD rd rs1 rs2 aq rl s) rfl hw computes_and
  | amoorD rd rs1 rs2 aq rl => cases h; exact isAmo_d (exec_amoorD rd rs1 rs2 aq rl s) rfl hw computes_or
  | amominD rd rs1 rs2 aq rl => cases h; exact isAmo_d (exec_amominD rd rs1 rs2 aq rl s) rfl hw (computes_min rfl)
  | amomaxD rd rs1 rs2 aq rl => cases h; exact isAmo_d (exec_amomaxD rd rs1 rs2 aq rl s) rfl hw (computes_max rfl)
  | amominuD rd rs1 rs2 aq rl => cases h; exact isAmo_d (exec_amominuD rd rs1 rs2 aq rl s) rfl hw computes_minu
  | amomaxuD rd rs1 rs2 aq rl => cases h; exact isAmo_d (exec_amomaxuD rd rs1 rs2 aq rl s) rfl hw computes_maxu
  | _ => cases h

theorem IsAmo.bytes {s : State} {i : Instr} {f : AmoForm} {g : BinOp} (h : IsAmo s i f g) : f.bytes = 4 ∨ f.bytes = 8 :=
  h.width.imp And.left And.left

/-- The new memory value, as a number (R608, R632). -/
theorem IsAmo.new {s : State} {i : Instr} {f : AmoForm} {g : BinOp} (h : IsAmo s i f g) {old : Word}
    (ho : old.toNat < 256 ^ f.bytes) :
    atomicNew f.bytes g old (s.x f.rs2) = BitVec.ofNat 64 (f.op old.toNat (u s f.rs2 % 256 ^ f.bytes)) := by
  rcases h.width with ⟨hb, hg⟩ | ⟨hb, hx, hg⟩
  · have hu : u s f.rs2 % 2 ^ 32 = (s.x f.rs2).toNat % 2 ^ 32 :=
      Nat.mod_mod_of_dvd _ (Nat.pow_dvd_pow 2 (by cases s.cfg.xlen <;> decide))
    have hold : (low 32 old).toNat = old.toNat := by
      rw [hb] at ho
      exact Nat.mod_eq_of_lt ho
    have hop : (low 32 (s.x f.rs2)).toNat = u s f.rs2 % 2 ^ 32 := by rw [low, BitVec.toNat_setWidth, hu]
    have hnew := hg (low 32 old) (low 32 (s.x f.rs2))
    rw [hold, hop] at hnew
    rw [hb, atomicNew, if_pos rfl, zext, ← BitVec.ofNat_toNat, hnew]
    rfl
  · have hu : u s f.rs2 = (s.x f.rs2).toNat := by
      rw [u, modulus, hx]
      exact Nat.mod_eq_of_lt (s.x f.rs2).isLt
    rw [hb, atomicNew, if_neg (by decide), hu, Nat.mod_eq_of_lt (show _ < 256 ^ 8 from (s.x f.rs2).isLt), ← hg,
      BitVec.ofNat_toNat, BitVec.setWidth_eq]

section
variable {i : Instr} {f : AmoForm} {s w : State} {p : Nat}

/-- An aligned AMO whose read fails raises the store access fault (R605, R607). -/
theorem exec_amo_read_fails {m : State} (h : amoForm i = some f) (hw : i.wf s.cfg.xlen = true) (ha : u s f.rs1 % f.bytes = 0)
    (ht : translate (BitVec.ofNat 64 (u s f.rs1)) .write s = .ok p w) (hr : physAccess p f.bytes .read 0 w = (none, m)) :
    ExecRaises i s m (.accessFault .write) (BitVec.ofNat 64 (u s f.rs1)) := by
  obtain ⟨g, hg⟩ := exists_isAmo h hw
  exact execRaises_of_fail (by
    simp only [hg.exec, doAmo, effAddr_zero, misaligned_u ha, Bool.false_eq_true, ↓reduceIte, amoAccess, ht, Res.bind, amoPhys,
      hr, Res.finish])

/-- An aligned AMO whose write fails raises the store access fault, after its read (R605, R607). -/
theorem exec_amo_write_fails {m m' : State} {old : Word} (h : amoForm i = some f) (hw : i.wf s.cfg.xlen = true)
    (ha : u s f.rs1 % f.bytes = 0) (ht : translate (BitVec.ofNat 64 (u s f.rs1)) .write s = .ok p w)
    (hr : physAccess p f.bytes .read 0 w = (some old, m)) (ho : old.toNat < 256 ^ f.bytes)
    (hs : physAccess p f.bytes .write (BitVec.ofNat 64 (f.op old.toNat (u s f.rs2 % 256 ^ f.bytes))) m = (none, m')) :
    ExecRaises i s m' (.accessFault .write) (BitVec.ofNat 64 (u s f.rs1)) := by
  obtain ⟨g, hg⟩ := exists_isAmo h hw
  rw [← hg.new ho] at hs
  exact execRaises_of_fail (by
    simp only [hg.exec, doAmo, effAddr_zero, misaligned_u ha, Bool.false_eq_true, ↓reduceIte, amoAccess, ht, Res.bind, amoPhys,
      hr, hs, Res.finish])

/-- An aligned AMO whose read and write answer: rd has the old value, and R602 follows (R608, R632). -/
theorem exec_amo_ok {m m' : State} {old v : Word} (h : amoForm i = some f) (hw : i.wf s.cfg.xlen = true)
    (ha : u s f.rs1 % f.bytes = 0) (ht : translate (BitVec.ofNat 64 (u s f.rs1)) .write s = .ok p w)
    (hr : physAccess p f.bytes .read 0 w = (some old, m)) (ho : old.toNat < 256 ^ f.bytes)
    (hs : physAccess p f.bytes .write (BitVec.ofNat 64 (f.op old.toNat (u s f.rs2 % 256 ^ f.bytes))) m = (some v, m')) :
    ∃ t, exec i s = .next t ∧ ResvAfterStore m' t ∧
      t = { retired m' f.rd (Int.bmod old.toNat (256 ^ f.bytes)) 4 with resv := t.resv, free := t.free } := by
  obtain ⟨g, hg⟩ := exists_isAmo h hw
  rw [← hg.new ho] at hs
  have he : exec i s = writeBack f.rd (atomicValue f.bytes m'.cfg.xlen old) 4 (storeDone m') := by
    simp only [hg.exec, doAmo, effAddr_zero, misaligned_u ha, Bool.false_eq_true, ↓reduceIte, amoAccess, ht, Res.bind, amoPhys,
      hr, hs, Res.finish]
  rw [he]
  exact storeDone_writeBack (trunc_atomicValue m' hg.bytes ho) f.rd 4

end

end Sys2Proof.Machine
end

section
/-! PROOFS. Accesses that land outside RAM (R206, R211, R228, R231): the page offset through a walk, the translation without a fill,
the request to a device, and the bytes that an access answers. -/

namespace Sys2Proof.Machine

open Sys2Proof.Spec

/-! ### The page offset -/

/-- A field put at bit 12 or above leaves the page offset. -/
theorem or_shiftLeft_mod_page (p x : Nat) {k : Nat} (h : 12 ≤ k) : (p ||| x <<< k) % 4096 = p % 4096 := by
  have hx : x <<< k % 2 ^ 12 = 0 := by
    rw [Nat.shiftLeft_eq]
    exact Nat.mod_eq_zero_of_dvd (Dvd.dvd.mul_left (Nat.pow_dvd_pow 2 h) x)
  show (p ||| x <<< k) % 2 ^ 12 = p % 2 ^ 12
  rw [Nat.or_mod_two_pow, hx, Nat.or_zero]

theorem foldl_or_mod_page (f : LevelDesc → Nat) (ls : List LevelDesc) (h : ∀ m ∈ ls, 12 ≤ m.paLo) (p : Nat) :
    (ls.foldl (fun p m => p ||| f m <<< m.paLo) p) % 4096 = p % 4096 := by
  induction ls generalizing p with
  | nil => rfl
  | cons m ls ih =>
    rw [List.foldl_cons, ih fun m' hm' => h m' (List.mem_cons_of_mem m hm'), or_shiftLeft_mod_page _ _ (h m List.mem_cons_self)]

/-- An assembled address has the offset of the virtual one (R229). -/
theorem assemble_mod_page (m : PtMode) (l : LevelDesc) (va pte : Word) : assemble m.desc l va pte % 4096 = va.toNat % 4096 := by
  have hlevels : ∀ j ∈ m.desc.levels, 12 ≤ j.paLo := by cases m <;> decide
  rw [assemble, foldl_or_mod_page (fun j => if j.paLo < l.paLo then j.vpn va else j.ppn pte) _ hlevels, Nat.mod_mod]

/-- The page that a walk finds is assembled from a leaf (R221, R229). -/
theorem walkFrom_page {d : PtDesc} {va : Word} {acc : Access} {s : State} {ls : List LevelDesc} {a p : Nat}
    {up : Option (Nat × Word)} (h : walkFrom d va acc s ls a = .page p up) : ∃ l pte, p = assemble d l va pte := by
  induction ls generalizing a with
  | nil => simp [walkFrom] at h
  | cons l ls ih =>
    simp only [walkFrom, walkLeaf] at h
    split at h
    · cases h
    · split at h
      · cases h
      · split at h
        · split at h
          · cases h
          · exact ih h
        · split at h
          · cases h
          · split at h
            · cases h
            · injection h with hp
              exact ⟨l, _, hp.symm⟩

/-- A walk keeps the page offset (R217, R229). -/
theorem walk_mod_page {va : Word} {acc : Access} {s : State} {p : Nat} {up : Option (Nat × Word)}
    (h : walk va acc s = .page p up) : p % 4096 = va.toNat % 4096 := by
  unfold walk at h
  split at h
  · injection h with hp
    rw [hp]
  · split at h
    · obtain ⟨l, pte, rfl⟩ := walkFrom_page h
      exact assemble_mod_page s.ptMode l va pte
    · cases h

/-- RAM is made of whole pages (R20): bytes of one page are in RAM together. -/
theorem inRam_of_page {c : Config} {p n : Nat} (hw : c.wf = true) (h : c.inRam p 1 = true) (hp : p % 4096 + n ≤ 4096) :
    c.inRam p n = true := by
  simp [Config.wf, Config.inRam] at hw h ⊢
  omega

end Sys2Proof.Machine

/-! ### Translation and whole accesses -/

namespace Sys2Proof.Spec

open Sys2Proof.Machine

section
variable {s : State} {va n p : Nat} {acc : Access} {up : Option (Nat × Word)}

theorem LandsOutside.toNat_va (h : LandsOutside s va n acc p up) : (BitVec.ofNat 64 va).toNat = va := by
  rw [BitVec.toNat_ofNat, Nat.mod_eq_of_lt h.width]

/-- The first byte is outside RAM too. -/
theorem LandsOutside.firstByte (h : LandsOutside s va n acc p up) : s.cfg.inRam p 1 = false := by
  have hoff := walk_mod_page h.walks
  rw [h.toNat_va] at hoff
  by_contra hr
  have hin := inRam_of_page (n := n) h.wf (by simpa using hr) (hoff ▸ h.onePage)
  rw [h.outside] at hin
  cases hin

/-- No entry of the TLB serves the access: without translation each maps its page to itself, inside RAM. -/
theorem LandsOutside.tlbMatch (h : LandsOutside s va n acc p up) : tlbMatch (BitVec.ofNat 64 va) acc s = none := by
  rcases h.tlb with ht | ⟨hb, htlb⟩
  · exact ht
  · have hp : p = va := by
      have hw := h.walks
      rw [walk_bare hb, h.toNat_va] at hw
      injection hw with hp
      exact hp.symm
    rw [Option.eq_none_iff_forall_not_mem]
    intro e he
    obtain ⟨hmem, htag, -⟩ := tlbMatch_some he
    have hvpn : e.ppage = va / 4096 := by
      rw [htlb.identity hb e hmem, htag, State.tlbTag, h.toNat_va]
    have hpage := htlb.inside e hmem
    rw [hvpn] at hpage
    have hbyte := inRam_part (q := va) (k := 1) hpage (Nat.div_mul_le_self va 4096) (by omega)
    rw [← hp, h.firstByte] at hbyte
    cases hbyte

/-- The translation: the walk's write-back and no fill (R228, R231). -/
theorem LandsOutside.translate (h : LandsOutside s va n acc p up) :
    translate (BitVec.ofNat 64 va) acc s = .ok p (writeBackPte up s) := by
  rw [Machine.translate, h.tlbMatch]
  simp only [translateByWalk, h.walks, tlbFill, writeBackPte_cfg, h.firstByte, Bool.false_eq_true, ↓reduceIte]

/-- The access is one physical access after the translation (R206, R211). -/
theorem LandsOutside.memOp (h : LandsOutside s va n acc p up) (data : Word) :
    memOp (BitVec.ofNat 64 va) n acc data s = physOrTrap (BitVec.ofNat 64 va) p n acc data (writeBackPte up s) := by
  have hpage : crossesPage (BitVec.ofNat 64 va) n = false := by
    have hle := h.onePage
    rw [crossesPage, h.toNat_va, decide_eq_false_iff_not]
    omega
  rw [Machine.memOp, hpage, if_neg Bool.false_ne_true, subAccess, h.translate]
  rfl

theorem LandsOutside.memRead_ok (h : LandsOutside s va n .read p up) {v : Word} {m : State}
    (hp : physAccess p n .read 0 (writeBackPte up s) = (some v, m)) : memRead (BitVec.ofNat 64 va) n s = .ok v m := by
  rw [memRead, h.memOp, physOrTrap, hp]

theorem LandsOutside.memRead_fails (h : LandsOutside s va n .read p up) {m : State}
    (hp : physAccess p n .read 0 (writeBackPte up s) = (none, m)) :
    memRead (BitVec.ofNat 64 va) n s = .trap (.accessFault .read) (BitVec.ofNat 64 va) m := by
  rw [memRead, h.memOp, physOrTrap, hp]

theorem LandsOutside.memWrite_ok (h : LandsOutside s va n .write p up) {data v : Word} {m : State}
    (hp : physAccess p n .write data (writeBackPte up s) = (some v, m)) :
    memWrite (BitVec.ofNat 64 va) n data s = .ok () m := by
  rw [memWrite, h.memOp, physOrTrap, hp]
  rfl

theorem LandsOutside.memWrite_fails (h : LandsOutside s va n .write p up) {data : Word} {m : State}
    (hp : physAccess p n .write data (writeBackPte up s) = (none, m)) :
    memWrite (BitVec.ofNat 64 va) n data s = .trap (.accessFault .write) (BitVec.ofNat 64 va) m := by
  rw [memWrite, h.memOp, physOrTrap, hp]
  rfl

end

end Sys2Proof.Spec

/-! ### Requests to devices -/

namespace Sys2Proof.Machine

open Sys2Proof.Spec

theorem lowBytes_toNat {n : Nat} (h : n ≤ 8) (v : Word) : (lowBytes n v).toNat = v.toNat % 256 ^ n := by
  have hpow : 2 ^ (8 * n) ≤ 2 ^ 64 := Nat.pow_le_pow_right (by decide) (by omega)
  have hpos : 0 < 2 ^ (8 * n) := Nat.two_pow_pos _
  rw [lowBytes, BitVec.toNat_and, BitVec.toNat_ofNat, Nat.mod_eq_of_lt (by omega), Nat.and_two_pow_sub_one_eq_mod, Nat.pow_mul]

/-- A request carries the low bytes of the value written, as a number (R208). -/
theorem lowBytes_eq {n : Nat} (h : n ≤ 8) (v : Word) : lowBytes n v = BitVec.ofNat 64 (v.toNat % 256 ^ n) := by
  rw [← lowBytes_toNat h, BitVec.ofNat_toNat, BitVec.setWidth_eq]

/-- Callbacks do not change what the event answers: it is its effect's answer in some state. -/
theorem withCallbacks_fst {α : Type} (f : State → α × State) (s : State) : ∃ t, (withCallbacks f s).1 = (f t).1 := by
  unfold withCallbacks
  split
  · exact ⟨s, rfl⟩
  · exact ⟨_, rfl⟩

/-- A device's answer has at most the bytes asked for (R208). -/
theorem deviceAccess_lt {q : DeviceRequest} (hn : q.size ≤ 8) {s : State} {v : Word} (h : (deviceAccess q s).1 = some v) :
    v.toNat < 256 ^ q.size := by
  obtain ⟨t, ht⟩ := withCallbacks_fst (deviceReply q) s
  rw [deviceAccess, ht, deviceReply] at h
  dsimp only at h
  split at h
  · injection h with h
    split at h
    · rw [← h]
      exact Nat.pos_of_neZero _
    · rw [← h, lowBytes_toNat hn]
      exact Nat.mod_lt _ (Nat.pos_of_neZero _)
  · cases h

/-- Without a callback a request is recorded and draws a free value, and nothing else changes. -/
theorem deviceAccess_of_nil {q : DeviceRequest} {s : State} (h : s.callbacks = []) :
    (deviceAccess q s).2 = { s with requests := q :: s.requests, free := s.free + 1 } := by
  rw [deviceAccess, withCallbacks_nil _ h]
  rfl

/-! ### The router outside RAM -/

section
variable {s : State} {p n : Nat}

theorem physAccess_plic (hr : s.cfg.inRam p n = false) (hp : s.cfg.inPlic p n = true) (acc : Access) (data : Word) :
    physAccess p n acc data s = plicAccess (p - s.cfg.plicBase) n acc data s := by
  simp [physAccess, hr, hp]

theorem physAccess_device {r : Region} (hr : s.cfg.inRam p n = false) (hp : s.cfg.inPlic p n = false)
    (hd : s.cfg.regionOf p n = some r) (acc : Access) (data : Word) :
    physAccess p n acc data s = deviceAccess (deviceRequest r p n acc data) s := by
  simp [physAccess, hr, hp, hd]

theorem physAccess_nowhere (hr : s.cfg.inRam p n = false) (hp : s.cfg.inPlic p n = false) (hd : s.cfg.regionOf p n = none)
    (acc : Access) (data : Word) : physAccess p n acc data s = (none, s) := by
  simp [physAccess, hr, hp, hd]

end

/-- An access to the window has 4 bytes or 8 where it is accepted, and so has what it answers (R955). -/
theorem plicAccess_lt {off n : Nat} {acc : Access} {data v : Word} {s : State} (h : (plicAccess off n acc data s).1 = some v) :
    v.toNat < 256 ^ n := by
  unfold plicAccess at h
  split at h
  · cases h
  · split at h
    · rename_i hn
      split at h
      · injection h with h
        rw [← h, hn, zext, BitVec.toNat_setWidth]
        exact Nat.lt_of_le_of_lt (Nat.mod_le _ _) (BitVec.isLt _)
      · cases h
    · split at h
      · rename_i hn
        rw [hn]
        exact v.isLt
      · cases h

/-- What a physical access answers has at most the bytes asked for (R201, R208, R955). -/
theorem physAccess_lt {p n : Nat} {acc : Access} {data v : Word} {s m : State} (hn : n ≤ 8)
    (h : physAccess p n acc data s = (some v, m)) : v.toNat < 256 ^ n := by
  have hv : (physAccess p n acc data s).1 = some v := by rw [h]
  by_cases hr : s.cfg.inRam p n = true
  · rw [physAccess_ram p n acc data s hr, ramAnswer] at hv
    injection hv with hv
    split at hv <;> rw [← hv]
    · exact Nat.pos_of_neZero _
    · exact Memory.readLE_lt s.mem p n hn
  · rw [Bool.not_eq_true] at hr
    by_cases hp : s.cfg.inPlic p n = true
    · rw [physAccess_plic hr hp] at hv
      exact plicAccess_lt hv
    · rw [Bool.not_eq_true] at hp
      cases hd : s.cfg.regionOf p n with
      | none =>
        rw [physAccess_nowhere hr hp hd] at hv
        cases hv
      | some r =>
        rw [physAccess_device hr hp hd] at hv
        exact deviceAccess_lt (q := deviceRequest r p n acc data) hn hv

/-- A physical access changes RAM, what a window access changes, and the record of requests, and nothing else. -/
theorem physAccess_frame (p n : Nat) (acc : Access) (data : Word) (s : State) :
    (physAccess p n acc data s).2 = { s with
      mem := (physAccess p n acc data s).2.mem, plic := (physAccess p n acc data s).2.plic,
      ip := (physAccess p n acc data s).2.ip, free := (physAccess p n acc data s).2.free,
      callbacks := (physAccess p n acc data s).2.callbacks, requests := (physAccess p n acc data s).2.requests } := by
  by_cases hr : s.cfg.inRam p n = true
  · rw [physAccess_ram p n acc data s hr]
  · rw [Bool.not_eq_true] at hr
    by_cases hp : s.cfg.inPlic p n = true
    · rw [physAccess_plic hr hp, plicAccess_frame]
    · rw [Bool.not_eq_true] at hp
      cases hd : s.cfg.regionOf p n with
      | none => rw [physAccess_nowhere hr hp hd]
      | some r => rw [physAccess_device hr hp hd, deviceAccess_frame]

theorem physAccess_pc {p n : Nat} {acc : Access} {data : Word} {s m : State} {v : Option Word}
    (h : physAccess p n acc data s = (v, m)) : m.pc = s.pc := by
  have hm : (physAccess p n acc data s).2.pc = s.pc := by rw [physAccess_frame]
  rwa [h] at hm

end Sys2Proof.Machine
end

section
/-! PROOFS. What reaches the PLIC's window and the external regions (R206-R208, R605, R607). -/

namespace Sys2Proof.Proofs

open Sys2Proof.Machine Sys2Proof.Spec

/-- Settles O29: `LandsOutside` gives each instruction's accesses as physical accesses, and the forms of the memory instructions say
what the instruction does with their answers. -/
theorem accessesReachDevices : Obligations.AccessesReachDevices := by
  intro s i p n up hwf hn hr
  refine ⟨?device, ?plic, ?load, ?store, ?lr, ?sc, ?amo⟩
  case device =>
    intro r acc data hp hd q
    have hq : deviceRequest r p n acc data = q := by rw [deviceRequest, lowBytes_eq hn]
    refine ⟨hq ▸ physAccess_device hr hp hd acc data, deviceAccess_requests q s, fun v => deviceAccess_lt hn, fun hc => ?_⟩
    rw [deviceAccess_of_nil hc]
  case plic => exact fun acc data hp => physAccess_plic hr hp acc data
  case load =>
    rintro f hf rfl va hl
    split <;> rename_i hp
    · exact exec_load_ok hf hwf (hl.memRead_ok hp) (physAccess_lt hn hp)
    · exact exec_load_trap hf hwf (hl.memRead_fails hp)
  case store =>
    rintro f hf rfl va hl
    split <;> rename_i m hp
    · have hpc : m.pc = s.pc := (physAccess_pc hp).trans (writeBackPte_pc s up)
      exact hpc ▸ exec_store_ok hf hwf (hl.memWrite_ok hp)
    · exact exec_store_trap hf hwf (hl.memWrite_fails hp)
  case lr =>
    intro rd rs1 hf ha hl
    split <;> rename_i hp
    · exact exec_lr_ok hf hwf ha (hl.memRead_ok hp) (physAccess_lt hn hp)
    · exact exec_lr_trap hf hwf ha (hl.memRead_fails hp)
  case sc =>
    intro rd rs1 rs2 hf ha hs hl
    split <;> rename_i hp
    · exact exec_sc_ok hf hwf ha hs (hl.memWrite_ok hp)
    · exact exec_sc_trap hf hwf ha hs (hl.memWrite_fails hp)
  case amo =>
    rintro f hf rfl ha va hl
    split <;> rename_i hp
    · exact exec_amo_read_fails hf hwf ha hl.translate hp
    · split <;> rename_i hp'
      · exact exec_amo_write_fails hf hwf ha hl.translate hp (physAccess_lt hn hp) hp'
      · exact exec_amo_ok hf hwf ha hl.translate hp (physAccess_lt hn hp) hp'

end Sys2Proof.Proofs
end

section
/-! PROOFS. Invariants of the hart: a predicate that each primitive update keeps, in a machine whose configuration is as `C` says,
is kept by every instruction and by every step. It is `StepKept` for a predicate of the hart's own fields. -/

namespace Sys2Proof.Machine

/-- Of the hart nothing but the reservation differs; beyond it RAM, the PLIC and the model's own fields may. -/
def SameHart (s t : State) : Prop :=
  t = { s with
    resv := t.resv, plic := t.plic, mem := t.mem, turns := t.turns, callbacks := t.callbacks, requests := t.requests
    free := t.free }

/-- What the updates of an instruction that takes no trap keep. -/
structure HartInvariant (C : Config → Prop) (I : State → Prop) : Prop where
  others : ∀ {s t}, SameHart s t → C s.cfg → I s → I t
  setIp : ∀ (s : State) k b, k ∈ [3, 7, 9, 11] → C s.cfg → I s → I { s with ip := setBit s.ip k b }
  fill : ∀ (s : State) va acc p, (s.paging = .bare → p = va.toNat) → C s.cfg → I s → I (tlbFill va acc p s)
  lose : ∀ (s : State) l, l.Sublist s.tlb → C s.cfg → I s → I { s with tlb := l }
  setX : ∀ (s : State) r v, C s.cfg → I s → I (s.setX r v)
  setPc : ∀ (s : State) v, s.cfg.trapUnit = .external ∨ (s.pc.getLsbD 0 = false → v.getLsbD 0 = false) →
    C s.cfg → I s → I (s.setPc v)
  csr : ∀ (s : State) a op v r, csrAccess a op v s = some r → C s.cfg → I s → I r.2

/-- What the updates of traps and of the external trap unit keep as well. -/
structure StepInvariant (C : Config → Prop) (I : State → Prop) : Prop extends HartInvariant C I where
  setCsr : ∀ (s : State) k v, k ∈ trapKeys → C s.cfg → I s → I (s.setCsr k v)
  setPriv : ∀ (s : State) p, C s.cfg → I s → I (s.setPriv p)
  runState : ∀ (s : State) r, s.cfg.trapUnit = .external ∨ r = .running → C s.cfg → I s → I { s with runState := r }
  trapUnitCsr : ∀ (s : State) w, s.cfg.trapUnit = .external → C s.cfg → I s → I (trapUnitCsr s w)

/-- The invariant as a relation between states: the configuration stays (R15), and with it the predicate. -/
def Keeps (C : Config → Prop) (I : State → Prop) (s t : State) : Prop := t.cfg = s.cfg ∧ (C s.cfg → I s → I t)

section
variable {C : Config → Prop} {I : State → Prop}

theorem Keeps.refl (s : State) : Keeps C I s s := ⟨rfl, fun _ => id⟩

theorem Keeps.trans {s t u : State} (h : Keeps C I s t) (h' : Keeps C I t u) : Keeps C I s u :=
  ⟨h'.1.trans h.1, fun hc hi => h'.2 (h.1 ▸ hc) (h.2 hc hi)⟩

theorem HartInvariant.keeps (K : HartInvariant C I) {s t : State} (h : SameHart s t) : Keeps C I s t :=
  ⟨by rw [h], K.others h⟩

/-- A PLIC line and the bit of ip that it drives (R963). -/
theorem HartInvariant.setLine (K : HartInvariant C I) (s : State) (c : Nat) (b : Bool) : Keeps C I s (setLine c b s) := by
  have ht : Keeps C I s { s with plic := { s.plic with line := Table.set false s.plic.line c b } } := K.keeps rfl
  unfold Machine.setLine
  cases ctxLine s.cfg c with
  | none => exact ht
  | some l => exact ht.trans ⟨rfl, K.setIp _ (lineBit l) b (by cases l <;> decide)⟩

theorem HartInvariant.plic (K : HartInvariant C I) : PlicKept (Keeps C I) where
  refl := Keeps.refl
  trans := Keeps.trans
  tick _ := K.keeps rfl
  select _ _ _ := K.keeps rfl
  line := K.setLine
  pending _ _ _ _ := K.keeps rfl
  enables _ _ _ := K.keeps rfl
  prio _ _ := K.keeps rfl
  threshold _ _ := K.keeps rfl
  callbacks _ _ := K.keeps rfl

theorem HartInvariant.access (K : HartInvariant C I) (st : Bool) : AccessKept st (Keeps C I) where
  refl := Keeps.refl
  trans := Keeps.trans
  tick _ := K.keeps rfl
  fill s va acc p h := ⟨tlbFill_cfg s va acc p, K.fill s va acc p h⟩
  pte _ _ _ _ _ _ := K.keeps rfl
  plic s off n acc data := K.plic.access off n acc data s
  device s q := K.plic.device (fun _ _ => K.keeps rfl) q s
  store _ _ _ _ _ _ := K.keeps rfl

/-- The rest of an instruction, where raises and xRET requests keep the predicate too. -/
theorem HartInvariant.rest (K : HartInvariant C I) (hr : ∀ c v s, Keeps C I s (raise c v s))
    (hx : ∀ l s, Keeps C I s (requestXret l s)) (rs : Bool) : FinishKept rs (Keeps C I) where
  refl := Keeps.refl
  trans := Keeps.trans
  tick _ := K.keeps rfl
  setX s r v := ⟨State.setX_cfg s r v, K.setX s r v⟩
  setPc s v h := ⟨rfl, K.setPc s v (.inr h)⟩
  resv _ _ _ := K.keeps rfl
  flush s := ⟨rfl, K.lose s [] (List.nil_sublist _)⟩
  csr s a op v r h := ⟨by rw [csrAccess_frame h], K.csr s a op v r h⟩
  raise := hr
  xret := hx

/-- Every instruction keeps what its updates keep. -/
theorem HartInvariant.exec (K : HartInvariant C I) (hr : ∀ c v s, Keeps C I s (raise c v s))
    (hx : ∀ l s, Keeps C I s (requestXret l s)) {i : Instr} {s t : State} (h : exec i s = .next t) (hc : C s.cfg) (hi : I s) :
    I t := by
  obtain ⟨m, u, hu, ha, hf⟩ := exec_completes i (K.access _) (K.rest hr hx _) s
  obtain rfl : u = t := by rw [hu] at h; exact Host.Outcome.next.inj h
  exact (ha.trans hf).2 hc hi

theorem StepInvariant.trap (K : StepInvariant C I) : TrapKept (Keeps C I) where
  trans := Keeps.trans
  setCsr s k v hk := ⟨rfl, K.setCsr s k v hk⟩
  setPriv s p := ⟨rfl, K.setPriv s p⟩
  setPc s v hv := ⟨rfl, K.setPc s v (.inr fun _ => hv)⟩
  runState s r h := ⟨rfl, K.runState s r h⟩

theorem StepInvariant.agent (K : StepInvariant C I) : AgentKept (Keeps C I) where
  toPlicKept := K.plic
  platform s k b hk := ⟨rfl, K.setIp s k b (by rcases hk with rfl | rfl <;> decide)⟩
  drop s tag := ⟨rfl, K.lose s _ List.filter_sublist⟩
  csr s w h := ⟨trapUnitCsr_cfg s w, K.trapUnitCsr s w h⟩
  setPriv s p _ := ⟨rfl, K.setPriv s p⟩
  setPc s v h := ⟨rfl, K.setPc s v (.inl h)⟩
  runState s h := ⟨rfl, K.runState s _ (.inl h)⟩

theorem StepInvariant.stepKept (K : StepInvariant C I) : StepKept (Keeps C I) :=
  { K.access true, K.rest K.trap.raise K.trap.requestXret true with
    turns := fun _ _ => K.keeps rfl
    interrupt := K.trap.takeInterrupt
    agent := K.agent.move }

/-- Every step keeps what its updates keep. -/
theorem StepInvariant.step (K : StepInvariant C I) {s t : State} (h : step s = .next t) (hc : C s.cfg) (hi : I s) : I t :=
  (K.stepKept.step h).2 hc hi

end

end Sys2Proof.Machine
end

section
/-! PROOFS. Every value keeps its XLEN bits (R101, R103, R109, R120). -/

namespace Sys2Proof.Machine

/-- What one write to the CSR bank may do, whatever the configuration: nothing, a value, ip, or satp with its mirror. -/
inductive CsrUpdate (s : State) : State → Prop
  | unchanged : CsrUpdate s s
  | value (k : Nat) (v : Word) : CsrUpdate s (s.setCsr k v)
  | ip (v : Word) : CsrUpdate s { s with ip := s.cfg.xlen.trunc v }
  | satp (v : Word) : CsrUpdate s (satpWrite (s.cfg.xlen.trunc v) s)

/-- A CSR access that answers is one such write (R659-R668). -/
theorem csrAccess_update {a : BitVec 12} {op : CsrOp} {v : Word} {s : State} {r : Word × State}
    (h : csrAccess a op v s = some r) : CsrUpdate s r.2 := by
  obtain ⟨-, h⟩ := csrAccess_some h
  revert h
  cases csrPolicy s.cfg (a.extractLsb' 8 2) (a.extractLsb' 0 8) with
  | rw => rintro ⟨⟩; exact .value _ _
  | ro =>
    simp only [policyAccess]
    split
    · rintro ⟨⟩; exact .unchanged
    · simp
  | ill => simp [policyAccess]
  | view bank id rmask wmask => rintro ⟨⟩; exact .value _ _
  | ip rmask wmask => rintro ⟨⟩; exact .ip _
  | satp => rintro ⟨⟩; exact .satp _

/-- So is a write of the external trap unit (R911). -/
theorem trapUnitCsr_update (s : State) (w : (BitVec 2 × Byte) × Word) : CsrUpdate s (trapUnitCsr s w) := by
  unfold trapUnitCsr
  split
  · exact .satp _
  · exact .value _ _

/-! ### Widths -/

theorem inWidth_trunc (x : Xlen) (v : Word) : InWidth x (x.trunc v) := x.trunc_trunc v

/-- A value of XLEN bits has no bit at or above XLEN. -/
theorem inWidth_iff (x : Xlen) (v : Word) : InWidth x v ↔ ∀ i, v.getLsbD i = true → i < x.bits := by
  constructor
  · intro h i hi
    rw [← h, Xlen.trunc_getLsbD, Bool.and_eq_true, decide_eq_true_eq] at hi
    exact hi.1
  · intro h
    apply BitVec.eq_of_getLsbD_eq
    intro i _
    rw [Xlen.trunc_getLsbD]
    cases hv : v.getLsbD i with
    | false => simp
    | true => simp [h i hv]

theorem InWidth.setBit {x : Xlen} {v : Word} (h : InWidth x v) {k : Nat} (hk : k < 32) (b : Bool) :
    InWidth x (setBit v k b) := by
  rw [inWidth_iff] at h ⊢
  intro i hi
  have hx : 32 ≤ x.bits := by cases x <;> decide
  rw [getLsbD_setBit _ _ _ _ (BitVec.lt_of_getLsbD hi)] at hi
  split at hi
  · omega
  · exact h i hi

/-- Widths are a matter of the registers, the pc, ip and the CSR values. -/
theorem WidthOk.congr {s t : State} (hw : WidthOk s)
    (h : t.cfg = s.cfg ∧ t.regs = s.regs ∧ t.pc = s.pc ∧ t.ip = s.ip ∧ t.csr = s.csr) : WidthOk t := by
  obtain ⟨hcfg, hregs, hpc, hip, hcsr⟩ := h
  exact ⟨by rw [hcfg, hregs]; exact hw.regs, by rw [hcfg, hpc]; exact hw.pc, by rw [hcfg, hip]; exact hw.ip,
    by rw [hcfg, hcsr]; exact hw.csr, by rw [hcsr]; exact hw.csrCanonical⟩

theorem WidthOk.setX {s : State} (h : WidthOk s) (r : RegIdx) (v : Word) : WidthOk (s.setX r v) := by
  have hregs : ∀ i : Fin 32, InWidth s.cfg.xlen (s.setX r v).regs[i] := by
    intro i
    rw [State.setX_regs]
    split
    · exact h.regs i
    · simp only [Fin.getElem_fin, Vector.getElem_set]
      split
      · exact inWidth_trunc _ _
      · exact h.regs i
  exact ⟨by simpa using hregs, by simpa using h.pc, by simpa using h.ip, by simpa using h.csr, by simpa using h.csrCanonical⟩

/-- A table of XLEN-bit values with one more set. -/
theorem inWidth_tableSet {x : Xlen} {t : List (Nat × Word)} (h : ∀ e ∈ t, InWidth x e.2) (k : Nat) (v : Word) :
    ∀ e ∈ Table.set 0 t k (x.trunc v), InWidth x e.2 := by
  intro e he
  rcases Table.mem_set _ _ _ _ _ he with ⟨rfl, -⟩ | ⟨he, -⟩
  · exact inWidth_trunc x v
  · exact h e he

theorem WidthOk.setCsr {s : State} (h : WidthOk s) (k : Nat) (v : Word) : WidthOk (s.setCsr k v) where
  regs := h.regs
  pc := h.pc
  ip := h.ip
  csr := inWidth_tableSet h.csr k v
  csrCanonical := Table.wf_set _ _ _ _ h.csrCanonical

theorem WidthOk.setIp {s : State} (h : WidthOk s) {v : Word} (hv : InWidth s.cfg.xlen v) : WidthOk { s with ip := v } :=
  ⟨h.regs, h.pc, hv, h.csr, h.csrCanonical⟩

theorem WidthOk.csrUpdate {s t : State} (h : WidthOk s) (u : CsrUpdate s t) : WidthOk t := by
  cases u with
  | unchanged => exact h
  | value k v => exact h.setCsr k v
  | ip v => exact h.setIp (inWidth_trunc _ v)
  | satp v =>
    unfold satpWrite
    split
    · exact (h.setCsr kSatp (s.cfg.xlen.trunc v)).congr (by simp)
    · exact h

/-- Every update cuts what it writes to XLEN bits, or sets a bit below 32. -/
theorem widthOk_invariant : StepInvariant (fun _ => True) WidthOk where
  others h _ hi := hi.congr (by rw [h]; simp)
  setIp s k b hk _ hi := hi.setIp (hi.ip.setBit (by simp at hk; omega) b)
  fill s va acc p _ _ hi := hi.congr (by simp)
  lose s l _ _ hi := hi.congr (by simp)
  setX s r v _ hi := hi.setX r v
  setPc s v _ _ hi := ⟨hi.regs, inWidth_trunc _ v, hi.ip, hi.csr, hi.csrCanonical⟩
  csr s a op v r h _ hi := hi.csrUpdate (csrAccess_update h)
  setCsr s k v _ _ hi := hi.setCsr k v
  setPriv s p _ hi := hi.congr (by simp)
  runState s r _ _ hi := hi.congr (by simp)
  trapUnitCsr s w _ _ hi := hi.csrUpdate (trapUnitCsr_update s w)

end Sys2Proof.Machine

namespace Sys2Proof.Proofs

open Sys2Proof.Machine

/-- Settles O52: a step is made of updates that each keep the widths. -/
theorem widthsAreKept : Obligations.WidthsAreKept := fun _ _ hi h => widthOk_invariant.step h trivial hi

end Sys2Proof.Proofs
end

section
/-! PROOFS. The paging flag follows priv and pt_mode (R108), and the TLB keeps its form (R217, R230, R231, R238). -/

namespace Sys2Proof.Machine

/-- The translation state: the paging flag and the TLB. -/
structure TranslationOk (s : State) : Prop where
  paging : PagingOk s
  tlb : TlbOk s

/-- Only a well-formed machine has a next state (R21). -/
theorem step_wf {s t : State} (h : step s = .next t) : s.cfg.wf = true := by
  by_contra hw
  obtain ⟨r, hr⟩ := (step_refused_iff s).2 (by simpa using hw)
  simp [hr] at h

/-- The form of the TLB is a matter of its entries, the configuration and the paging flag. -/
theorem TlbOk.congr {s t : State} (hi : TlbOk s) (h : t.cfg = s.cfg ∧ t.paging = s.paging ∧ t.tlb.Sublist s.tlb) : TlbOk t := by
  obtain ⟨hcfg, hpaging, htlb⟩ := h
  exact ⟨hi.oneEach.sublist htlb, fun e he => hcfg ▸ hi.inside e (htlb.mem he),
    fun hb e he => hi.identity (hpaging ▸ hb) e (htlb.mem he)⟩

theorem TranslationOk.congr {s t : State} (hi : TranslationOk s) (h : t.cfg = s.cfg ∧ t.priv = s.priv ∧ t.ptMode = s.ptMode ∧
    t.paging = s.paging ∧ t.tlb.Sublist s.tlb) : TranslationOk t := by
  obtain ⟨hcfg, hpriv, hmode, hpaging, htlb⟩ := h
  exact ⟨by rw [PagingOk, hpaging, hpriv, hmode]; exact hi.paging, hi.tlb.congr ⟨hcfg, hpaging, htlb⟩⟩

/-- The flag is recomputed, and the TLB is emptied where it changes (R108, R238). -/
theorem TlbOk.recomputePaging {s : State} (h : TlbOk s) : TranslationOk s.recomputePaging := by
  refine ⟨rfl, ?_⟩
  by_cases hp : pagingOf s.priv s.ptMode = s.paging
  · exact h.congr ⟨rfl, hp, by simp [State.recomputePaging, hp]⟩
  · have ht : s.recomputePaging.tlb = [] := if_neg hp
    exact ⟨by simp [ht], by simp [ht], by simp [ht]⟩

theorem TranslationOk.csrUpdate {s t : State} (h : TranslationOk s) (u : CsrUpdate s t) : TranslationOk t := by
  cases u with
  | unchanged => exact h
  | value k v => exact h.congr (by simp)
  | ip v => exact h.congr (by simp)
  | satp v =>
    unfold satpWrite
    split
    · exact (h.tlb.congr (by simp)).recomputePaging
    · exact h

/-- A fill maps its page inside RAM; wherever priv or pt_mode changes the paging flag is recomputed. -/
theorem translationOk_invariant : StepInvariant (fun c => c.wf = true) TranslationOk where
  others h _ hi := hi.congr (by rw [h]; simp)
  setIp s k b _ _ hi := hi.congr (by simp)
  fill s va acc p hp hc hi := ⟨by simpa [PagingOk] using hi.paging, tlbFill_ok va acc p s hi.tlb hc hp⟩
  lose s l hl _ hi := hi.congr (by simpa using hl)
  setX s r v _ hi := hi.congr (by simp)
  setPc s v _ _ hi := hi.congr (by simp)
  csr s a op v r h _ hi := hi.csrUpdate (csrAccess_update h)
  setCsr s k v _ _ hi := hi.congr (by simp)
  setPriv s p _ hi := (hi.tlb.congr (t := { s with priv := p }) (by simp)).recomputePaging
  runState s r _ _ hi := hi.congr (by simp)
  trapUnitCsr s w _ _ hi := hi.csrUpdate (trapUnitCsr_update s w)

end Sys2Proof.Machine

namespace Sys2Proof.Proofs

open Sys2Proof.Machine

/-- Settles O53: the paging flag and the TLB are kept together, in a well-formed machine, the only one that steps. -/
theorem translationStateIsKept : Obligations.TranslationStateIsKept := fun _ _ hp ht h =>
  have k := translationOk_invariant.step h (step_wf h) ⟨hp, ht⟩
  ⟨k.paging, k.tlb⟩

end Sys2Proof.Proofs
end

section
/-! PROOFS. The reference CSR bank (R130): what an entry can be, and what a write to the bank can do. -/

namespace Sys2Proof.Machine

/-- The read-write values of the reference bank (R130). -/
def readWriteKeys : List Nat :=
  [kStvec, csrKey 1 0x06, csrKey 1 0x40, kSepc, kScause, kStval,
   kMstatus, kMedeleg, kMideleg, kMie, kMtvec, csrKey 3 0x06, csrKey 3 0x40, kMepc, kMcause, kMtval]

/-- The read-only values of the reference bank (R130). -/
def readOnlyKeys : List Nat := [csrKey 3 0x01, csrKey 3 0x11, csrKey 3 0x12, csrKey 3 0x13, csrKey 3 0x14]

/-- The values that the reference bank has views of, with the bits that a view shows and writes (R130). -/
def viewMasks (x : Xlen) : List (Nat × Word) := [(kMstatus, sstatusMask x), (kMie, 0x222)]

/-- What the policy of an entry says of its key and its masks, in the reference bank (R130). Banks 0 and 2 are empty. -/
def referenceEntry (x : Xlen) (key : Nat) : CsrPolicy → Bool
  | .ill | .ro => true
  | .rw => key ∈ readWriteKeys
  | .view bank id rmask wmask => 256 ≤ key && rmask = wmask && (csrKey bank id, wmask) ∈ viewMasks x
  | .ip _ wmask => wmask ∈ [0x222#64, 0x002#64]
  | .satp => key = kSatp

theorem referenceCsrs_entry (x : Xlen) : ∀ e ∈ referenceCsrs x, referenceEntry x e.key e.policy = true := by
  cases x <;> decide

theorem csrPolicy_reference {s : State} (h : ReferenceCsrs s) (bank : BitVec 2) (id : Byte) :
    referenceEntry s.cfg.xlen (csrKey bank id) (csrPolicy s.cfg bank id) = true := by
  by_cases hp : csrPolicy s.cfg bank id = .ill
  · rw [hp]; rfl
  · obtain ⟨e, he, rfl, rfl, hpol⟩ := csrPolicy_mem rfl hp
    rw [← hpol]
    exact referenceCsrs_entry _ e (h ▸ he)

theorem csrPolicy_satp {s : State} (h : ReferenceCsrs s) : csrPolicy s.cfg 1 0x80 = .satp := by
  unfold csrPolicy
  rw [h]
  cases s.cfg.xlen <;> rfl

/-- What a CSR access can do in the reference bank, at the privilege of the hart (R121, R130, R661). -/
inductive ReferenceUpdate (s : State) : State → Prop
  | unchanged : ReferenceUpdate s s
  | value (k : Nat) (v : Word) : k ∈ readWriteKeys → k / 256 ≤ s.priv.code → ReferenceUpdate s (s.setCsr k v)
  | view (k : Nat) (mask v : Word) : (k, mask) ∈ viewMasks s.cfg.xlen → s.priv ≠ .user →
      ReferenceUpdate s (s.setCsr k (mergeBits (s.csrAt k) v mask))
  | ip (mask v : Word) : mask ∈ [0x222#64, 0x002#64] →
      ReferenceUpdate s { s with ip := s.cfg.xlen.trunc (mergeBits s.ip v mask) }
  | satp (v : Word) : s.priv ≠ .user → ReferenceUpdate s (satpWrite (s.cfg.xlen.trunc v) s)

theorem csrKey_div (bank : BitVec 2) (id : Byte) : csrKey bank id / 256 = bank.toNat := by
  have := id.isLt
  unfold csrKey
  omega

theorem csrAccess_reference {a : BitVec 12} {op : CsrOp} {v : Word} {s : State} {r : Word × State}
    (hc : ReferenceCsrs s) (h : csrAccess a op v s = some r) : ReferenceUpdate s r.2 := by
  obtain ⟨hp, h⟩ := csrAccess_some h
  have he := csrPolicy_reference hc (a.extractLsb' 8 2) (a.extractLsb' 0 8)
  rw [← csrKey_div _ (a.extractLsb' 0 8)] at hp
  revert h
  generalize csrPolicy s.cfg (a.extractLsb' 8 2) (a.extractLsb' 0 8) = pol at he
  generalize csrKey (a.extractLsb' 8 2) (a.extractLsb' 0 8) = key at he hp
  have above : 256 ≤ key → s.priv ≠ .user := by
    intro hk hu
    rw [hu, Priv.code] at hp
    omega
  cases pol with
  | rw => rintro ⟨⟩; exact .value _ _ (by simpa [referenceEntry] using he) hp
  | ro =>
    simp only [policyAccess]
    split
    · rintro ⟨⟩; exact .unchanged
    · simp
  | ill => simp [policyAccess]
  | view bank id rmask wmask =>
    simp only [referenceEntry, Bool.and_eq_true, decide_eq_true_eq] at he
    obtain ⟨⟨hk, -⟩, hm⟩ := he
    rintro ⟨⟩
    exact .view _ _ _ hm (above hk)
  | ip rmask wmask => rintro ⟨⟩; exact .ip _ _ (by simpa [referenceEntry] using he)
  | satp =>
    simp only [referenceEntry, decide_eq_true_eq] at he
    rintro ⟨⟩
    exact .satp _ (above (he ▸ by decide))

theorem satpWrite_csrAt_ne {k : Nat} (hk : k ≠ kSatp) (v : Word) (s : State) : (satpWrite v s).csrAt k = s.csrAt k := by
  unfold satpWrite
  split
  · exact (State.csrAt_setCsr s kSatp k v).trans (if_neg hk)
  · rfl

/-! ### The mirror of satp, and the unused bits of ip -/

/-- pt_mode and root mirror satp, and ip has no bit outside R109's table. -/
structure MirrorOk (s : State) : Prop where
  satp : SatpMirror s
  ip : IpOk s

/-- The configuration has the reference bank. -/
def HasReferenceCsrs (c : Config) : Prop := c.csrConfig = referenceCsrs c.xlen

theorem SatpMirror.congr {s t : State} (hi : SatpMirror s)
    (h : t.cfg = s.cfg ∧ t.csrAt kSatp = s.csrAt kSatp ∧ t.ptMode = s.ptMode ∧ t.root = s.root) : SatpMirror t := by
  obtain ⟨hcfg, hsatp, hmode, hroot⟩ := h
  rw [SatpMirror, hcfg, hsatp, hmode, hroot]
  exact hi

theorem MirrorOk.congr {s t : State} (hi : MirrorOk s)
    (h : t.cfg = s.cfg ∧ t.csr = s.csr ∧ t.ptMode = s.ptMode ∧ t.root = s.root ∧ t.ip = s.ip) : MirrorOk t := by
  obtain ⟨hcfg, hcsr, hmode, hroot, hip⟩ := h
  exact ⟨hi.satp.congr ⟨hcfg, by rw [State.csrAt, hcsr]; rfl, hmode, hroot⟩, by rw [IpOk, hip]; exact hi.ip⟩

theorem MirrorOk.setCsr {s : State} (hi : MirrorOk s) {k : Nat} (hk : k ≠ kSatp) (v : Word) : MirrorOk (s.setCsr k v) :=
  ⟨hi.satp.congr ⟨rfl, by rw [State.csrAt_setCsr, if_neg hk.symm], rfl, rfl⟩, hi.ip⟩

/-- A committed write of satp is mirrored (R668). -/
theorem MirrorOk.satpWrite {s : State} (hi : MirrorOk s) (v : Word) : MirrorOk (satpWrite (s.cfg.xlen.trunc v) s) := by
  cases h : satpMode s.cfg.xlen (s.cfg.xlen.trunc v) with
  | none => rw [satpWrite_none h]; exact hi
  | some m =>
    rw [satpWrite_some h]
    refine ⟨?_, hi.ip⟩
    have hv : (s.setCsr kSatp (s.cfg.xlen.trunc v)).csrAt kSatp = s.cfg.xlen.trunc v := by simp
    exact ⟨(congrArg (satpMode s.cfg.xlen) hv).trans h, congrArg (satpRoot s.cfg.xlen) hv⟩

/-- ip has only the bits of R109's table. -/
theorem ipOk_iff (s : State) : IpOk s ↔ ∀ i < 64, s.ip.getLsbD i = true → ipMask.getLsbD i = true := by
  rw [IpOk, BitVec.eq_of_getLsbD_eq_iff]
  simp only [BitVec.getLsbD_and, BitVec.getLsbD_not]
  grind

theorem MirrorOk.setIp {s : State} (hi : MirrorOk s) {v : Word}
    (hv : ∀ i < 64, v.getLsbD i = true → s.ip.getLsbD i = true ∨ ipMask.getLsbD i = true) : MirrorOk { s with ip := v } :=
  ⟨hi.satp.congr ⟨rfl, rfl, rfl, rfl⟩,
    (ipOk_iff _).2 fun i h64 h => (hv i h64 h).elim ((ipOk_iff s).1 hi.ip i h64) id⟩

theorem MirrorOk.referenceUpdate {s t : State} (hi : MirrorOk s) (u : ReferenceUpdate s t) : MirrorOk t := by
  cases u with
  | unchanged => exact hi
  | value k v hk _ => exact hi.setCsr (by rintro rfl; revert hk; decide) _
  | view k mask v hk _ =>
    exact hi.setCsr ((by cases s.cfg.xlen <;> decide : ∀ e ∈ viewMasks s.cfg.xlen, e.1 ≠ kSatp) _ hk) _
  | ip mask v hm =>
    refine hi.setIp fun i h64 h => ?_
    rw [Xlen.trunc_getLsbD, mergeBits_bit _ _ _ _ h64, Bool.and_eq_true] at h
    have sub : ∀ m ∈ [0x222#64, 0x002#64], m &&& ipMask = m := by simp [ipMask]
    by_cases hb : mask.getLsbD i = true
    · rw [← sub mask hm, BitVec.getLsbD_and, Bool.and_eq_true] at hb
      exact .inr hb.2
    · exact .inl (by simpa [hb] using h.2)
  | satp v _ => exact hi.satpWrite v

/-- With an external trap unit too satp is written by R668 alone. -/
theorem MirrorOk.trapUnitCsr {s : State} (hi : MirrorOk s) (hc : ReferenceCsrs s) (w : (BitVec 2 × Byte) × Word) :
    MirrorOk (trapUnitCsr s w) := by
  unfold Machine.trapUnitCsr
  split
  · exact hi.satpWrite _
  · rename_i hp
    refine hi.setCsr (fun hk => hp ?_) _
    obtain ⟨hb, hid⟩ := csrKey_inj.1 hk
    rw [hb, hid]
    exact csrPolicy_satp hc

theorem mirrorOk_invariant : StepInvariant HasReferenceCsrs MirrorOk where
  others h _ hi := hi.congr (by rw [h]; simp)
  setIp s k b hk _ hi := by
    refine hi.setIp fun i h64 h => ?_
    rw [getLsbD_setBit _ _ _ _ h64] at h
    split at h
    · rename_i hik
      exact .inr (hik ▸ (by decide : ∀ k ∈ [3, 7, 9, 11], ipMask.getLsbD k = true) k hk)
    · exact .inl h
  fill s va acc p _ _ hi := hi.congr (by simp)
  lose s l _ _ hi := hi.congr (by simp)
  setX s r v _ hi := hi.congr (by simp)
  setPc s v _ _ hi := hi.congr (by simp)
  csr s a op v r h hc hi := hi.referenceUpdate (csrAccess_reference hc h)
  setCsr s k v hk _ hi := hi.setCsr (by rintro rfl; revert hk; decide) v
  setPriv s p _ hi := hi.congr (by simp)
  runState s r _ _ hi := hi.congr (by simp)
  trapUnitCsr s w _ hc hi := hi.trapUnitCsr hc w

end Sys2Proof.Machine

namespace Sys2Proof.Proofs

open Sys2Proof.Machine

/-- Settles O54: satp is written with its mirror alone, and every write of ip stays inside R109's table. -/
theorem satpMirrorAndIpAreKept : Obligations.SatpMirrorAndIpAreKept := fun _ _ hc hs hip h =>
  have k := mirrorOk_invariant.step h hc ⟨hs, hip⟩
  ⟨k.satp, k.ip⟩

end Sys2Proof.Proofs
end

section
/-! PROOFS. The reference machine: read-only CSRs, an even pc and a running hart (R103, R660, R911). -/

namespace Sys2Proof.Machine

/-- What the reference trap unit keeps. -/
structure ReferenceOk (s : State) : Prop where
  csrs : ReadOnlyCsrs s
  pc : PcEven s
  running : s.runState = .running

/-- The configuration has the reference bank and the reference trap unit. -/
structure IsReference (c : Config) : Prop where
  csrs : HasReferenceCsrs c
  trapUnit : c.trapUnit = .reference

theorem ReadOnlyCsrs.congr {s t : State} (hi : ReadOnlyCsrs s) (hc : t.cfg = s.cfg)
    (h : ∀ k ∈ readOnlyKeys, t.csrAt k = s.csrAt k) : ReadOnlyCsrs t := by
  simp only [readOnlyKeys, List.forall_mem_cons] at h
  obtain ⟨h1, h2, h3, h4, h5, -⟩ := h
  exact ⟨by rw [h1, hc, hi.misa], h2.trans hi.mvendorid, h3.trans hi.marchid, h4.trans hi.mimpid, h5.trans hi.mhartid⟩

theorem ReferenceOk.congr {s t : State} (hi : ReferenceOk s)
    (h : t.cfg = s.cfg ∧ t.csr = s.csr ∧ t.pc = s.pc ∧ t.runState = s.runState) : ReferenceOk t := by
  obtain ⟨hcfg, hcsr, hpc, hrun⟩ := h
  exact ⟨hi.csrs.congr hcfg fun k _ => by rw [State.csrAt, hcsr]; rfl, by rw [PcEven, hpc]; exact hi.pc, hrun.trans hi.running⟩

theorem ReferenceOk.setCsr {s : State} (hi : ReferenceOk s) {k : Nat} (hk : k ∉ readOnlyKeys) (v : Word) :
    ReferenceOk (s.setCsr k v) :=
  ⟨hi.csrs.congr rfl fun j hj => by rw [State.csrAt_setCsr, if_neg (by rintro rfl; exact hk hj)], hi.pc, hi.running⟩

theorem ReferenceOk.referenceUpdate {s t : State} (hi : ReferenceOk s) (u : ReferenceUpdate s t) : ReferenceOk t := by
  cases u with
  | unchanged => exact hi
  | value k v hk _ => exact hi.setCsr ((by decide : ∀ k ∈ readWriteKeys, k ∉ readOnlyKeys) k hk) v
  | view k mask v hk _ =>
    exact hi.setCsr ((by cases s.cfg.xlen <;> decide : ∀ e ∈ viewMasks s.cfg.xlen, e.1 ∉ readOnlyKeys) _ hk) _
  | ip mask v _ => exact hi.congr (by simp)
  | satp v _ =>
    have hf := satpWrite_frame (s.cfg.xlen.trunc v) s
    exact ⟨hi.csrs.congr (by rw [hf]) fun k hk => satpWrite_csrAt_ne (by rintro rfl; revert hk; decide) _ _,
      by rw [PcEven, hf]; exact hi.pc, by rw [hf]; exact hi.running⟩

theorem referenceOk_invariant : StepInvariant IsReference ReferenceOk where
  others h _ hi := hi.congr (by rw [h]; simp)
  setIp s k b _ _ hi := hi.congr (by simp)
  fill s va acc p _ _ hi := hi.congr (by simp)
  lose s l _ _ hi := hi.congr (by simp)
  setX s r v _ hi := hi.congr (by simp)
  setPc s v hv hc hi := by
    have hr := hc.trapUnit
    exact ⟨hi.csrs.congr rfl fun _ _ => rfl, even_trunc ((hv.resolve_left (by simp [hr])) hi.pc), hi.running⟩
  csr s a op v r h hc hi := hi.referenceUpdate (csrAccess_reference hc.csrs h)
  setCsr s k v hk _ hi := hi.setCsr ((by decide : ∀ k ∈ trapKeys, k ∉ readOnlyKeys) k hk) v
  setPriv s p _ hi := hi.congr (by simp)
  runState s r hr hc hi := ⟨hi.csrs.congr rfl fun _ _ => rfl, hi.pc, hr.resolve_left (by simp [hc.trapUnit])⟩
  trapUnitCsr s w h hc _ := absurd (hc.trapUnit.symm.trans h) (by decide)

end Sys2Proof.Machine

namespace Sys2Proof.Proofs

open Sys2Proof.Machine

/-- Settles O55: no write reaches a read-only entry, every new pc is even, and the trap unit leaves the hart running. -/
theorem referenceMachineIsKept : Obligations.ReferenceMachineIsKept := fun _ _ hc hu hro hpc hrun h =>
  have k := referenceOk_invariant.step h ⟨hc, hu⟩ ⟨hro, hpc, hrun⟩
  ⟨k.csrs, k.pc, k.running⟩

end Sys2Proof.Proofs
end

section
/-! PROOFS. What an instruction in S-mode or U-mode leaves alone, with the reference bank and an external trap unit (R105, R123,
R130, R661, R664). -/

namespace Sys2Proof.Machine

/-- The bits of an M-mode value that S-mode can write: those of its view, if it has one (R130, R664). -/
def supervisorMask (x : Xlen) (k : Nat) : Word := if k = kMstatus then sstatusMask x else if k = kMie then 0x222 else 0

theorem supervisorMask_mstatus (x : Xlen) : supervisorMask x kMstatus = sstatusMask x := if_pos rfl

theorem supervisorMask_mie (x : Xlen) : supervisorMask x kMie = 0x222 := (if_neg (by decide)).trans (if_pos rfl)

theorem supervisorMask_other {k : Nat} (h : k ≠ kMstatus) (h' : k ≠ kMie) (x : Xlen) : supervisorMask x k = 0#64 :=
  (if_neg h).trans (if_neg h')

/-- `t` differs from `s`, where the instruction began, as its privilege allows. -/
structure WithinPrivilege (s t : State) : Prop where
  priv : t.priv = s.priv
  width : ∀ k, InWidth s.cfg.xlen (t.csrAt k)
  user : s.priv = .user → t.csr = s.csr ∧ t.ptMode = s.ptMode ∧ t.root = s.root
  supervisor : s.priv = .supervisor → ∀ k, 768 ≤ k →
    t.csrAt k &&& ~~~supervisorMask s.cfg.xlen k = s.csrAt k &&& ~~~supervisorMask s.cfg.xlen k

theorem raise_external {s : State} (h : s.cfg.trapUnit = .external) (c : Cause) (v : Word) :
    raise c v s = { s with runState := .faulted c v } := by
  rw [raise, h]

theorem requestXret_external {s : State} (h : s.cfg.trapUnit = .external) (l : XretLevel) :
    requestXret l s = { s with runState := .xret l } := by
  simp only [requestXret, h]

theorem viewMasks_supervisorMask {x : Xlen} {k : Nat} {mask : Word} (h : (k, mask) ∈ viewMasks x) :
    supervisorMask x k = mask := by
  simp only [viewMasks, List.mem_cons, Prod.mk.injEq, List.not_mem_nil, or_false] at h
  rcases h with ⟨rfl, rfl⟩ | ⟨rfl, rfl⟩
  · exact supervisorMask_mstatus x
  · exact supervisorMask_mie x

/-- A merge, cut to XLEN bits, leaves the bits outside its mask (R664). -/
theorem trunc_mergeBits_outside {x : Xlen} {old : Word} (h : InWidth x old) (v mask : Word) :
    x.trunc (mergeBits old v mask) &&& ~~~mask = old &&& ~~~mask := by
  apply BitVec.eq_of_getLsbD_eq
  intro i hi
  have hold := congrArg (·.getLsbD i) h
  simp only [Xlen.trunc_getLsbD] at hold
  rw [BitVec.getLsbD_and, BitVec.getLsbD_and, BitVec.getLsbD_not, Xlen.trunc_getLsbD, mergeBits_bit _ _ _ _ hi]
  cases mask.getLsbD i with
  | true => simp
  | false => simpa [hi] using hold

namespace WithinPrivilege

variable {s m t : State}

theorem refl (h : WidthOk s) : WithinPrivilege s s :=
  ⟨rfl, State.csrAt_width h.csr, fun _ => ⟨rfl, rfl, rfl⟩, fun _ _ _ => rfl⟩

theorem congr (hi : WithinPrivilege s m) (h : t.priv = m.priv ∧ t.csr = m.csr ∧ t.ptMode = m.ptMode ∧ t.root = m.root) :
    WithinPrivilege s t := by
  obtain ⟨hpriv, hcsr, hmode, hroot⟩ := h
  have hat : ∀ k, t.csrAt k = m.csrAt k := fun k => by rw [State.csrAt, hcsr]; rfl
  exact ⟨hpriv.trans hi.priv, fun k => hat k ▸ hi.width k, by rw [hcsr, hmode, hroot]; exact hi.user,
    fun hs k hk => hat k ▸ hi.supervisor hs k hk⟩

/-- A write above U-mode that leaves the bits of M-mode values outside S-mode's masks. -/
theorem setCsr (hi : WithinPrivilege s m) (hc : m.cfg = s.cfg) (hu : s.priv ≠ .user) {k : Nat} {v : Word}
    (hk : s.priv = .supervisor → 768 ≤ k →
      s.cfg.xlen.trunc v &&& ~~~supervisorMask s.cfg.xlen k = m.csrAt k &&& ~~~supervisorMask s.cfg.xlen k) :
    WithinPrivilege s (m.setCsr k v) := by
  have hat : ∀ j, (m.setCsr k v).csrAt j = if j = k then s.cfg.xlen.trunc v else m.csrAt j := fun j => by
    rw [State.csrAt_setCsr, hc]
  refine ⟨hi.priv, fun j => ?_, fun h => absurd h hu, fun hs j hj => ?_⟩
  · rw [hat]
    split
    · exact inWidth_trunc _ v
    · exact hi.width j
  · rw [hat]
    split
    · rename_i hjk
      subst hjk
      exact (hk hs hj).trans (hi.supervisor hs j hj)
    · exact hi.supervisor hs j hj

theorem referenceUpdate (hi : WithinPrivilege s m) (hc : m.cfg = s.cfg) (u : ReferenceUpdate m t) : WithinPrivilege s t := by
  cases u with
  | unchanged => exact hi
  | value k v hk hp =>
    rw [hi.priv] at hp
    refine hi.setCsr hc (fun hu => ?_) (fun hs h => ?_)
    · have := (by decide : ∀ k ∈ readWriteKeys, 256 ≤ k) k hk
      rw [hu, Priv.code] at hp
      omega
    · rw [hs, Priv.code] at hp
      omega
  | view k mask v hk hu =>
    rw [hc] at hk
    refine hi.setCsr hc (hi.priv ▸ hu) fun _ _ => ?_
    rw [viewMasks_supervisorMask hk]
    exact trunc_mergeBits_outside (hi.width k) v mask
  | ip mask v _ => exact hi.congr (by simp)
  | satp v hu =>
    rw [hi.priv] at hu
    cases h : satpMode m.cfg.xlen (m.cfg.xlen.trunc v) with
    | none => rw [satpWrite_none h]; exact hi
    | some mode =>
      have hk := hi.setCsr hc hu (k := kSatp) (v := m.cfg.xlen.trunc v) fun _ h => absurd h (by decide)
      rw [satpWrite_some h]
      exact ⟨hk.priv, hk.width, fun h => absurd h hu, hk.supervisor⟩

/-- Outside CSR accesses no update touches priv, a CSR value or a translation register. -/
theorem invariant (hr : ReferenceCsrs s) : HartInvariant (· = s.cfg) (WithinPrivilege s) where
  others h _ hi := hi.congr (by rw [h]; simp)
  setIp m k b _ _ hi := hi.congr (by simp)
  fill m va acc p _ _ hi := hi.congr (by simp)
  lose m l _ _ hi := hi.congr (by simp)
  setX m r v _ hi := hi.congr (by simp)
  setPc m v _ _ hi := hi.congr (by simp)
  csr m a op v r h hc hi := hi.referenceUpdate hc (csrAccess_reference (by rw [ReferenceCsrs, hc]; exact hr) h)

/-- With an external trap unit a raise and an xRET request are a report, and change the run state alone. -/
theorem exec (hr : ReferenceCsrs s) (hw : WidthOk s) (hx : s.cfg.trapUnit = .external) {i : Instr} (h : exec i s = .next t) :
    WithinPrivilege s t := by
  refine (invariant hr).exec (fun c v m => ?_) (fun l m => ?_) h rfl (refl hw)
  · refine ⟨by rw [raise_frame c v m], fun hc hi => ?_⟩
    rw [raise_external (hc ▸ hx)]
    exact hi.congr (by simp)
  · refine ⟨by rw [requestXret_frame l m], fun hc hi => ?_⟩
    rw [requestXret_external (hc ▸ hx)]
    exact hi.congr (by simp)

end WithinPrivilege

end Sys2Proof.Machine

namespace Sys2Proof.Proofs

open Sys2Proof.Machine

/-- Settles O60: a CSR access needs its bank's privilege, and S-mode reaches M-mode values through views alone. -/
theorem lowerModesCannotWriteMachineCsrs : Obligations.LowerModesCannotWriteMachineCsrs := by
  intro i s t hr hw hx h
  have hi := WithinPrivilege.exec hr hw hx h
  refine ⟨hi.priv, hi.user, fun hs => ⟨fun k hk hne hne' => ?_, ?_, ?_⟩⟩
  · simpa only [supervisorMask_other hne hne', BitVec.not_zero, BitVec.and_allOnes] using hi.supervisor hs k hk
  · simpa only [supervisorMask_mstatus] using hi.supervisor hs kMstatus (by decide)
  · simpa only [supervisorMask_mie] using hi.supervisor hs kMie (by decide)

end Sys2Proof.Proofs
end

section
/-! PROOFS. Views in the reference bank (R130, R664, R666): the bits that a CSR instruction shows and those that it writes. -/

namespace Sys2Proof.Machine

open Sys2Proof.Spec

/-! ### CSR instructions by their form -/

theorem inWidth_x {s : State} (hw : WidthOk s) (r : RegIdx) : InWidth s.cfg.xlen (s.x r) := by
  unfold State.x
  split
  · exact Xlen.trunc_zero _
  · exact hw.regs r.toFin

/-- A register's value is the number that the statements read (R31). -/
theorem x_toNat {s : State} (hw : WidthOk s) (r : RegIdx) : (s.x r).toNat = u s r :=
  (Nat.mod_eq_of_lt ((Xlen.trunc_eq_self_iff _ _).1 (inWidth_x hw r))).symm

/-- Every CSR instruction is `doCsr` (R670-R676). -/
theorem exec_csrForm {s : State} {i : Instr} {rd : RegIdx} {a : BitVec 12} {op : CsrOp} {v : Nat} (hw : WidthOk s)
    (h : csrForm s i = some (rd, a, op, v)) : ∃ w, exec i s = doCsr i rd a op w s ∧ w.toNat = v := by
  have zext_toNat : ∀ b : BitVec 5, (zext b).toNat = b.toNat := fun b => BitVec.toNat_setWidth_of_le (by decide)
  cases i with
  | csrrw rd rs1 a => cases h; exact ⟨_, exec_csrrw rd rs1 a s, x_toNat hw rs1⟩
  | csrrs rd rs1 a => cases h; exact ⟨_, exec_csrrs rd rs1 a s, x_toNat hw rs1⟩
  | csrrc rd rs1 a => cases h; exact ⟨_, exec_csrrc rd rs1 a s, x_toNat hw rs1⟩
  | csrrwi rd b a => cases h; exact ⟨_, exec_csrrwi rd b a s, zext_toNat b⟩
  | csrrsi rd b a => cases h; exact ⟨_, exec_csrrsi rd b a s, zext_toNat b⟩
  | csrrci rd b a => cases h; exact ⟨_, exec_csrrci rd b a s, zext_toNat b⟩
  | _ => cases h

/-- A CSR instruction whose access answers writes the old value to rd (R676). -/
theorem doCsr_retired {i : Instr} {rd : RegIdx} {a : BitVec 12} {op : CsrOp} {w old : Word} {s t : State}
    (h : csrAccess a op w s = some (old, t)) : doCsr i rd a op w s = .next (retired t rd old.toNat 4) := by
  rw [doCsr, h]
  exact writeBack_retired (trunc_asWord_of_toNat t rfl) rd 4

/-- The access that an address names by its low 10 bits: bank 9:8 and id 7:0 (R121). -/
theorem csrAccess_address {a : BitVec 12} {n : BitVec 10} {op : CsrOp} {w : Word} {s : State} (h : a.extractLsb' 0 10 = n)
    (hp : (a.extractLsb' 8 2).toNat ≤ s.priv.code) : csrAccess a op w s =
      policyAccess (csrPolicy s.cfg (n.extractLsb' 8 2) (n.extractLsb' 0 8))
        (csrKey (n.extractLsb' 8 2) (n.extractLsb' 0 8)) op w s := by
  have hb : n.extractLsb' 8 2 = a.extractLsb' 8 2 := by subst h; ext j; simp [BitVec.getElem_extractLsb']
  have hi : n.extractLsb' 0 8 = a.extractLsb' 0 8 := by subst h; ext j; simp [BitVec.getElem_extractLsb']
  rw [hb, hi]
  exact if_neg (by omega)

/-- The policies of sstatus, sie, mip and sip (R130). -/
theorem csrPolicy_views {s : State} (h : ReferenceCsrs s) :
    csrPolicy s.cfg 1 0x00 = .view 3 0x00 (sstatusMask s.cfg.xlen) (sstatusMask s.cfg.xlen) ∧
    csrPolicy s.cfg 1 0x04 = .view 3 0x04 0x222 0x222 ∧ csrPolicy s.cfg 3 0x44 = .ip (BitVec.allOnes 64) 0x222 ∧
    csrPolicy s.cfg 1 0x44 = .ip 0x222 0x002 := by
  unfold csrPolicy
  rw [h]
  cases s.cfg.xlen <;> exact ⟨rfl, rfl, rfl, rfl⟩

/-! ### Bits of a view -/

theorem newBit_eq (op : CsrOp) (old w : Word) {j : Nat} (hj : j < 64) :
    (op.apply old w).getLsbD j = newBit op old.toNat w.toNat j := by
  rw [CsrOp.apply_bit op old w j hj]
  cases op <;> rfl

/-- The bits that a view shows (R664, R666). -/
theorem shown_bit {x : Xlen} {v rmask : Word} {rbits : Nat → Bool} (h : InWidth x v)
    (hr : ∀ j < x.bits, rmask.getLsbD j = rbits j) (j : Nat) :
    (x.trunc (v &&& rmask)).toNat.testBit j = (rbits j && v.getLsbD j) := by
  rw [BitVec.testBit_toNat, Xlen.trunc_getLsbD, BitVec.getLsbD_and]
  by_cases hj : j < x.bits
  · simp [hj, hr j hj, Bool.and_comm]
  · have hv : v.getLsbD j = false := by
      by_contra hc
      exact hj ((inWidth_iff x v).1 h j (by simpa using hc))
    simp [hv]

/-- The bits that a view writes: those of the post-operation value under the write mask (R650, R664, R666). -/
theorem written_bit {x : Xlen} {v wmask : Word} {wbits : Nat → Bool} (hm : ∀ j < x.bits, wmask.getLsbD j = wbits j) (op : CsrOp)
    (old w : Word) (j : Nat) (hj : j < x.bits) :
    (x.trunc (mergeBits v (op.apply old w) wmask)).getLsbD j =
      if wbits j then newBit op old.toNat w.toNat j else v.getLsbD j := by
  have h64 : j < 64 := Nat.lt_of_lt_of_le hj x.bits_le
  rw [Xlen.trunc_getLsbD, mergeBits_bit _ _ _ _ h64, newBit_eq op old w h64, hm j hj]
  simp [hj]

/-! ### Accesses to a view -/

/-- The instruction shows and writes bits of the CSR value `k`, and changes nothing else but rd and pc. -/
def ShowsValue (s : State) (i : Instr) (rd : RegIdx) (op : CsrOp) (v k : Nat) (rbits wbits : Nat → Bool) : Prop :=
  ∃ (t : State) (old : Nat), exec i s = .next t ∧ t = { retired s rd old 4 with csr := t.csr } ∧ OtherCsrs s t [k] ∧
    (∀ j, old.testBit j = (rbits j && (s.csrAt k).getLsbD j)) ∧
    ∀ j, j < s.cfg.xlen.bits → (t.csrAt k).getLsbD j = if wbits j then newBit op old v j else (s.csrAt k).getLsbD j

/-- The instruction shows and writes bits of ip, and changes nothing else but rd and pc. -/
def ShowsIp (s : State) (i : Instr) (rd : RegIdx) (op : CsrOp) (v : Nat) (rbits wbits : Nat → Bool) : Prop :=
  ∃ (t : State) (old : Nat), exec i s = .next t ∧ t = { retired s rd old 4 with ip := t.ip } ∧
    (∀ j, old.testBit j = (rbits j && s.ip.getLsbD j)) ∧
    ∀ j, j < s.cfg.xlen.bits → t.ip.getLsbD j = if wbits j then newBit op old v j else s.ip.getLsbD j

section
variable {s : State} {i : Instr} {rd : RegIdx} {a : BitVec 12} {op : CsrOp} {v : Nat} {n : BitVec 10} {rmask wmask : Word}
  {rbits wbits : Nat → Bool}

theorem exec_view {bank : BitVec 2} {id : Byte} (hf : csrForm s i = some (rd, a, op, v)) (hw : WidthOk s)
    (hp : (a.extractLsb' 8 2).toNat ≤ s.priv.code) (ha : a.extractLsb' 0 10 = n)
    (hpol : csrPolicy s.cfg (n.extractLsb' 8 2) (n.extractLsb' 0 8) = .view bank id rmask wmask)
    (hr : ∀ j < s.cfg.xlen.bits, rmask.getLsbD j = rbits j) (hm : ∀ j < s.cfg.xlen.bits, wmask.getLsbD j = wbits j) :
    ShowsValue s i rd op v (csrKey bank id) rbits wbits := by
  obtain ⟨w, he, rfl⟩ := exec_csrForm hw hf
  have hacc := csrAccess_address (op := op) (w := w) ha hp
  rw [hpol] at hacc
  refine ⟨_, _, he.trans (doCsr_retired hacc), rfl, fun j hj => ?_, shown_bit (State.csrAt_width hw.csr _) hr, fun j hj => ?_⟩
  · exact (State.csrAt_setCsr s _ j _).trans (if_neg (by simpa using hj))
  · exact (congrArg (·.getLsbD j) (State.csrAt_setCsr_self s _ _)).trans (written_bit hm op _ w j hj)

theorem exec_ipView (hf : csrForm s i = some (rd, a, op, v)) (hw : WidthOk s)
    (hp : (a.extractLsb' 8 2).toNat ≤ s.priv.code) (ha : a.extractLsb' 0 10 = n)
    (hpol : csrPolicy s.cfg (n.extractLsb' 8 2) (n.extractLsb' 0 8) = .ip rmask wmask)
    (hr : ∀ j < s.cfg.xlen.bits, rmask.getLsbD j = rbits j) (hm : ∀ j < s.cfg.xlen.bits, wmask.getLsbD j = wbits j) :
    ShowsIp s i rd op v rbits wbits := by
  obtain ⟨w, he, rfl⟩ := exec_csrForm hw hf
  have hacc := csrAccess_address (op := op) (w := w) ha hp
  rw [hpol] at hacc
  exact ⟨_, _, he.trans (doCsr_retired hacc), rfl, shown_bit hw.ip hr, written_bit hm op _ w⟩

end

/-! ### The masks of R130 -/

/-- SIE, SPIE, SPP, SUM, MXR, and UXL when XLEN = 64. -/
theorem sstatusMask_bit (x : Xlen) : ∀ j < x.bits, (sstatusMask x).getLsbD j =
    (j == 1 || j == 5 || j == 8 || j == 18 || j == 19 || (x == .rv64 && (j == 32 || j == 33))) := by
  cases x <;> decide

theorem supervisorBits_bit (x : Xlen) : ∀ j < x.bits, (0x222#64).getLsbD j = (j == 1 || j == 5 || j == 9) := by
  cases x <;> decide

theorem softwareBit_bit (x : Xlen) : ∀ j < x.bits, (0x002#64).getLsbD j = (j == 1) := by
  cases x <;> decide

theorem allOnes_bit (x : Xlen) : ∀ j < x.bits, (BitVec.allOnes 64).getLsbD j = decide (j < x.bits) := by
  cases x <;> decide

end Sys2Proof.Machine

namespace Sys2Proof.Proofs

open Sys2Proof.Machine

/-- Settles O35, by the policies of the four entries and their masks. -/
theorem viewsOfTheReferenceCsrs : Obligations.ViewsOfTheReferenceCsrs := by
  intro s i rd a op v hf hw hc hp
  obtain ⟨hsstatus, hsie, hmip, hsip⟩ := csrPolicy_views hc
  have super := supervisorBits_bit s.cfg.xlen
  exact ⟨fun ha => exec_view hf hw hp ha hsstatus (sstatusMask_bit _) (sstatusMask_bit _),
    fun ha => exec_view hf hw hp ha hsie super super,
    fun ha => exec_ipView hf hw hp ha hmip (allOnes_bit _) super,
    fun ha => exec_ipView hf hw hp ha hsip super (softwareBit_bit _)⟩

end Sys2Proof.Proofs
end

section
/-! PROOFS. The state after reset (R140, R1003-R1005), for every configuration and launch image. -/

namespace Sys2Proof

section
variable {α β : Type} {d : β} {f : List (Nat × β) → α → List (Nat × β)} {key : α → Nat}

/-- A table built from a list leaves the keys that the list does not name. -/
theorem Table.get_foldl_of_ne (hf : ∀ t a j, j ≠ key a → Table.get d (f t a) j = Table.get d t j) {j : Nat} (l : List α)
    (hl : ∀ a ∈ l, key a ≠ j) (t : List (Nat × β)) : Table.get d (l.foldl f t) j = Table.get d t j := by
  induction l generalizing t with
  | nil => rfl
  | cons a l ih =>
    rw [List.forall_mem_cons] at hl
    exact (ih hl.2 _).trans (hf t a j hl.1.symm)

/-- A table built from a list with one entry for a key holds the value of each entry. -/
theorem Table.get_foldl_of_mem (hf : ∀ t a j, j ≠ key a → Table.get d (f t a) j = Table.get d t j) {l : List α}
    (hl : l.Pairwise fun a b => key a ≠ key b) {a : α} (ha : a ∈ l) {v : β} (hv : ∀ t, Table.get d (f t a) (key a) = v)
    (t : List (Nat × β)) : Table.get d (l.foldl f t) (key a) = v := by
  induction l generalizing t with
  | nil => cases ha
  | cons b l ih =>
    rw [List.pairwise_cons] at hl
    rcases List.mem_cons.1 ha with rfl | ha
    · exact (Table.get_foldl_of_ne hf l (fun b hb => (hl.1 b hb).symm) _).trans (hv t)
    · exact ih hl.2 ha _

end

namespace Machine

variable (c : Config) (image : List Host.Cell)

theorem resetOf_x {r : Fin 32} (hr : r ≠ 0) : (State.resetOf c image).x (BitVec.ofFin r) = c.xlen.trunc c.initX[r] := by
  have h0 : (BitVec.ofFin r : RegIdx) ≠ 0 := fun h => hr (by simpa using congrArg BitVec.toFin h)
  have hn : (0 : Nat) ≠ r := fun h => hr (Fin.ext h.symm)
  rw [State.x, if_neg h0]
  simp [State.resetOf, hn]

theorem resetOf_prioOf (h : c.plicPrioInit.Pairwise fun a b => a.1 ≠ b.1) :
    (∀ e ∈ c.plicPrioInit, 1 ≤ e.1 → e.1 < c.plicSources → (State.resetOf c image).plic.prioOf e.1 = e.2) ∧
    ∀ k, (∀ e ∈ c.plicPrioInit, e.1 ≠ k) → (State.resetOf c image).plic.prioOf k = 0 := by
  have other : ∀ (t : List (Nat × BitVec 32)) (e : Nat × BitVec 32) j, j ≠ e.1 →
      Table.get 0 (if 1 ≤ e.1 && e.1 < c.plicSources then Table.set 0 t e.1 e.2 else t) j = Table.get 0 t j := by
    intro t e j hj
    split
    · exact Table.get_set_ne _ _ _ hj
    · rfl
  constructor
  · intro e he h1 hn
    rw [Plic.prioOf, if_neg (by omega)]
    refine Table.get_foldl_of_mem other (List.pairwise_reverse.2 (h.imp Ne.symm)) (List.mem_reverse.2 he) (fun t => ?_) []
    simp [h1, hn]
  · intro k hk
    rw [Plic.prioOf]
    split
    · rfl
    · exact Table.get_foldl_of_ne other _ (fun e he => hk e (List.mem_reverse.1 he)) []

theorem resetOf_csrAt (h : c.csrConfig.Pairwise fun a b => a.key ≠ b.key) :
    (∀ e ∈ c.csrConfig, (State.resetOf c image).csrAt e.key = c.xlen.trunc e.dflt) ∧
    ∀ k, (∀ e ∈ c.csrConfig, e.key ≠ k) → (State.resetOf c image).csrAt k = 0 := by
  have other : ∀ (t : List (Nat × Word)) (e : CsrSpec) j, j ≠ e.key →
      Table.get 0 (Table.set 0 t e.key (c.xlen.trunc e.dflt)) j = Table.get 0 t j := fun t e j => Table.get_set_ne _ _ _
  exact ⟨fun e he => Table.get_foldl_of_mem other (List.pairwise_reverse.2 (h.imp Ne.symm)) (List.mem_reverse.2 he)
      (fun t => Table.get_set_self _ _ _ _) [],
    fun k hk => Table.get_foldl_of_ne other _ (fun e he => hk e (List.mem_reverse.1 he)) []⟩

theorem resetOf_read (h : image.Pairwise fun a b => a.1 ≠ b.1) {e : Host.Cell} (he : e ∈ image) (hr : c.inRam e.1 1 = true) :
    Memory.read (State.resetOf c image).mem e.1 = e.2 := by
  have other : ∀ (m : Memory) (e : Host.Cell) j, j ≠ e.1 →
      Table.get Memory.unlisted (if c.ramBase ≤ e.1 && e.1 < c.ramBase + c.ramSize then Memory.write m e.1 e.2 else m) j =
        Table.get Memory.unlisted m j := by
    intro m e j hj
    split
    · exact Table.get_set_ne _ _ _ hj
    · rfl
  refine Table.get_foldl_of_mem other h he (fun m => ?_) []
  simp only [Config.inRam, Bool.and_eq_true, decide_eq_true_eq] at hr
  rw [if_pos (by simp; omega)]
  exact Table.get_set_self _ _ _ _

/-! ### Invariants -/

theorem resetOf_memoryOk : MemoryOk (State.resetOf c image) := by
  obtain ⟨hwf, hin⟩ := Memory.ofImage_ok c.ramBase c.ramSize image
  refine ⟨hwf, fun e he => ?_⟩
  obtain ⟨hlo, hhi⟩ := hin e he
  show c.inRam e.1 1 = true
  simp only [Config.inRam, Bool.and_eq_true, decide_eq_true_eq]
  omega

theorem csrDefaults_ok : (∀ e ∈ csrDefaults c, InWidth c.xlen e.2) ∧ Table.wf 0 (csrDefaults c) = true :=
  List.foldlRecOn (motive := fun t => (∀ e ∈ t, InWidth c.xlen e.2) ∧ Table.wf 0 t = true) _ _
    ⟨by simp, rfl⟩ fun _ ⟨hw, hc⟩ e _ => ⟨inWidth_tableSet hw e.key e.dflt, Table.wf_set _ _ _ _ hc⟩

theorem resetOf_widthOk : WidthOk (State.resetOf c image) where
  regs i := by
    simp only [State.resetOf, Fin.getElem_fin, Vector.getElem_set, Vector.getElem_map]
    split
    · exact Xlen.trunc_zero _
    · exact inWidth_trunc _ _
  pc := inWidth_trunc _ _
  ip := Xlen.trunc_zero _
  csr := (csrDefaults_ok c).1
  csrCanonical := (csrDefaults_ok c).2

theorem resetOf_translationOk : TranslationOk (State.resetOf c image) where
  paging := rfl
  tlb := ⟨by simp [State.resetOf], by simp [State.resetOf], by simp [State.resetOf]⟩

theorem resetOf_plicOk (h : 0 < c.plicSources) : PlicOk (State.resetOf c image) where
  pending i hi := by simp [State.resetOf, Plic.reset, Plic.isPending] at hi
  claim _ := h

theorem referenceCsrs_pairwise (x : Xlen) : (referenceCsrs x).Pairwise fun a b => a.key ≠ b.key := by cases x <;> decide

/-- The CSR values of the reference configuration: the defaults of R130. -/
theorem reference_resetOf_csrAt {x : Xlen} {e : CsrSpec} (h : e ∈ referenceCsrs x) :
    (State.resetOf (Config.reference x) image).csrAt e.key = x.trunc e.dflt :=
  (resetOf_csrAt (Config.reference x) image (referenceCsrs_pairwise x)).1 e h

theorem reference_resetOf_mirrorOk (x : Xlen) : MirrorOk (State.resetOf (Config.reference x) image) where
  satp := by
    have hs : (State.resetOf (Config.reference x) image).csrAt kSatp = x.trunc 0 :=
      reference_resetOf_csrAt image (e := ⟨1, 0x80, "satp", .satp, 0⟩) (by simp [referenceCsrs, referenceBank1])
    rw [SatpMirror, hs]
    cases x <;> exact ⟨rfl, rfl⟩
  ip := BitVec.zero_and

theorem reference_resetOf_referenceOk (x : Xlen) : ReferenceOk (State.resetOf (Config.reference x) image) where
  csrs := by
    have value : ∀ e ∈ referenceCsrs x, (State.resetOf (Config.reference x) image).csrAt e.key = x.trunc e.dflt :=
      fun e => reference_resetOf_csrAt image
    simp only [referenceCsrs, List.forall_mem_append, referenceBank3, List.forall_mem_cons] at value
    obtain ⟨-, -, misa, -, -, -, -, -, vendor, arch, imp, hart, -⟩ := value
    exact ⟨misa.trans (by cases x <;> rfl), vendor.trans (Xlen.trunc_zero x), arch.trans (Xlen.trunc_zero x),
      imp.trans (Xlen.trunc_zero x), hart.trans (Xlen.trunc_zero x)⟩
  pc := by cases x <;> exact (by decide : (0x80000000#64).getLsbD 0 = false)
  running := rfl

theorem reference_wf (x : Xlen) : (Config.reference x).wf = true := by cases x <;> rfl

end Machine

end Sys2Proof

namespace Sys2Proof.Proofs

open Sys2Proof.Machine

/-- Settles O50: the fields are `State.resetOf`'s own, and each table is built from its list. -/
theorem resetState : Obligations.ResetState := by
  intro c image
  exact ⟨rfl, rfl, rfl, rfl, rfl, rfl, rfl, rfl, rfl, rfl, State.x_zero _, fun _ hr => resetOf_x c image hr,
    fun k => ⟨BitVec.getLsbD_zero, rfl, rfl, rfl, rfl⟩, rfl, resetOf_prioOf c image, resetOf_csrAt c image,
    fun h _ he hr => resetOf_read c image h he hr⟩

/-- Settles O57: every invariant but those of the reference bank holds after the reset of any configuration. -/
theorem resetMeetsTheInvariants : Obligations.ResetMeetsTheInvariants := by
  intro x
  have ht := resetOf_translationOk (Config.reference x) []
  have hm := reference_resetOf_mirrorOk [] x
  have hr := reference_resetOf_referenceOk [] x
  exact ⟨reference_wf x, resetOf_memoryOk _ _, resetOf_widthOk _ _, ht.paging, ht.tlb, hm.satp, hm.ip,
    resetOf_plicOk _ _ (by decide : 0 < 32), hr.csrs, hr.pc, rfl⟩

end Sys2Proof.Proofs
end

section
/-! PROOFS. RAM in the vocabulary of the statements (R201): the number in some bytes, and the bytes after a little-endian write. -/

namespace Sys2Proof.Machine

open Sys2Proof.Spec

/-- A little-endian read is the number in its bytes (R201). -/
theorem readLE_toNat (m : Memory) (p : Nat) {n : Nat} (h : n ≤ 8) : (Memory.readLE m p n).toNat = leNat m p n := by
  induction n generalizing p with
  | zero => rfl
  | succ n ih => rw [Memory.readLE_succ_toNat m p n h, ih _ (by omega), leNat]

theorem leNat_lt (m : Memory) (p : Nat) {n : Nat} (h : n ≤ 8) : leNat m p n < 256 ^ n :=
  readLE_toNat m p h ▸ Memory.readLE_lt m p n h

/-- Byte `j` of a number, from the number modulo 256^n. -/
theorem byte_congr {x y n j : Nat} (h : x % 256 ^ n = y % 256 ^ n) (hj : j < n) : x / 256 ^ j % 256 = y / 256 ^ j % 256 := by
  have hd : 256 ^ j * 256 ∣ 256 ^ n := Nat.pow_succ .. ▸ Nat.pow_dvd_pow 256 hj
  rw [← Nat.mod_mul_right_div_self, ← Nat.mod_mul_right_div_self, ← Nat.mod_mod_of_dvd x hd, h, Nat.mod_mod_of_dvd y hd]

/-- A little-endian write stores every number that agrees with the word in the bytes written (R201). -/
theorem stored_writeLE (m : Memory) (p : Nat) {n x : Nat} {v : Word} (h : v.toNat % 256 ^ n = x % 256 ^ n) :
    Stored m (Memory.writeLE m p n v) p n x := by
  intro a
  rw [Memory.read_writeLE]
  split
  · rename_i ha
    have hb := byte_congr h (j := a - p) (by omega)
    rw [BitVec.toNat_eq, BitVec.toNat_setWidth, BitVec.toNat_ushiftRight, BitVec.toNat_ofNat, Nat.shiftRight_eq_div_pow,
      Nat.pow_mul]
    exact hb
  · rfl

/-- The upper bytes of a number, from the number modulo 256^(k + l). -/
theorem upperBytes_congr {x y k l : Nat} (h : x % 256 ^ (k + l) = y % 256 ^ (k + l)) :
    x / 256 ^ k % 256 ^ l = y / 256 ^ k % 256 ^ l := by
  rw [← Nat.mod_mul_right_div_self, ← Nat.mod_mul_right_div_self, ← Nat.pow_add, h]

/-- Two parts of a value, the lower of `k` bytes, as a number (R213). -/
theorem or_shiftLeft_toNat {lo hi : Word} {k l : Nat} (hlo : lo.toNat < 256 ^ k) (hhi : hi.toNat < 256 ^ l) (h : k + l ≤ 8) :
    (lo ||| hi <<< (8 * k)).toNat = lo.toNat + 256 ^ k * hi.toNat := by
  have he : 2 ^ (8 * k) = 256 ^ k := Nat.pow_mul 2 8 k
  have hlt : hi.toNat * 256 ^ k < 2 ^ 64 := calc
    hi.toNat * 256 ^ k < 256 ^ l * 256 ^ k := Nat.mul_lt_mul_of_pos_right hhi (by positivity)
    _ = 256 ^ (k + l) := by rw [← Nat.pow_add, Nat.add_comm]
    _ ≤ 256 ^ 8 := Nat.pow_le_pow_right (by decide) h
  rw [BitVec.toNat_or, BitVec.toNat_shiftLeft, Nat.shiftLeft_eq, he, Nat.mod_eq_of_lt hlt, Nat.or_comm, Nat.mul_comm, ← he,
    ← Nat.two_pow_add_eq_or_of_lt (he ▸ hlo), Nat.add_comm]

end Sys2Proof.Machine
end

section
/-! PROOFS. What an access may change (R216, R228, R241): a frame, and in RAM, for an access that is no write, the entry that its
walk writes back. -/

namespace Sys2Proof.Machine

open Sys2Proof.Spec

/-- An access changes RAM, the TLB, what a window access changes, and the record of requests, and nothing else. -/
def AccessFrame (s t : State) : Prop :=
  t = { s with
    mem := t.mem, tlb := t.tlb, plic := t.plic, ip := t.ip, free := t.free, callbacks := t.callbacks, requests := t.requests }

theorem AccessFrame.trans {s t u : State} (h : AccessFrame s t) (h' : AccessFrame t u) : AccessFrame s u := by
  rw [AccessFrame, h', h]

theorem accessKept_frame (st : Bool) : AccessKept st AccessFrame where
  refl _ := rfl
  trans := AccessFrame.trans
  tick _ := rfl
  fill s va acc p _ := by rw [AccessFrame, tlbFill_eq]
  pte _ _ _ _ _ _ := rfl
  plic s off n acc data := by rw [AccessFrame, plicAccess_frame off n acc data s]
  device s q := by rw [AccessFrame, deviceAccess_frame q s]
  store _ _ _ _ _ _ := rfl

/-! ### A walk reads RAM and the hart's translation state -/

theorem walkFrom_congr {s t : State} (h : t.cfg = s.cfg ∧ t.mem = s.mem ∧ t.priv = s.priv ∧ t.csr = s.csr) (d : PtDesc)
    (va : Word) (acc : Access) (ls : List LevelDesc) (a : Nat) : walkFrom d va acc t ls a = walkFrom d va acc s ls a := by
  cases s
  cases t
  obtain ⟨rfl, rfl, rfl, rfl⟩ := h
  induction ls generalizing a with
  | nil => rfl
  | cons l ls ih =>
    simp only [walkFrom, ih]
    rfl

theorem walk_congr {s t : State} (h : AccessFrame s t) (hm : t.mem = s.mem) (va : Word) (acc : Access) :
    walk va acc t = walk va acc s := by
  have hw := walkFrom_congr (s := s) (t := t) ⟨by rw [h], hm, by rw [h], by rw [h]⟩
  have hp : t.paging = s.paging ∧ t.ptMode = s.ptMode ∧ t.root = s.root := ⟨by rw [h], by rw [h], by rw [h]⟩
  obtain ⟨hpaging, hmode, hroot⟩ := hp
  simp only [walk, hpaging, hmode, hroot, hw]

end Sys2Proof.Machine

/-! ### The entry that a walk writes back -/

namespace Sys2Proof.Spec

open Sys2Proof.Machine

/-- What an access that began in `t` wrote back, in terms of the state `s` where the instruction began. -/
theorem WroteEntry.congr {s t : State} {va : Word} {acc : Access} {m m' : Memory} (h : AccessFrame s t)
    (hw : WroteEntry t va acc m m') : WroteEntry s va acc m m' := by
  rcases hw with hm | ⟨p, q, v, hp, hs⟩
  · exact .inl hm
  · have hf : AccessFrame { s with mem := m } { t with mem := m } := by rw [AccessFrame, h]
    rw [walk_congr hf rfl] at hp
    rw [(by rw [h] : t.ptMode = s.ptMode)] at hs
    exact .inr ⟨p, q, v, hp, hs⟩

/-- Without translation, or with `AD_UPDATE` off, nothing is written back (R217, R228). -/
theorem WroteEntry.eq_of_no_update {s : State} {va : Word} {acc : Access} {m m' : Memory} (hw : WroteEntry s va acc m m')
    (h : s.paging = .bare ∨ s.cfg.adUpdate = false) : m' = m := by
  rcases hw with hm | ⟨p, q, v, hp, -⟩
  · exact hm
  · obtain ⟨hpaging, had, -⟩ := walk_update _ _ _ _ _ _ hp
    rcases h with h | h
    · exact absurd (hpaging.symm.trans h) (by decide)
    · exact absurd (had.symm.trans h) (by decide)

end Sys2Proof.Spec

namespace Sys2Proof.Machine

open Sys2Proof.Spec

/-- What an access for reading or fetching leaves in RAM: at most its walk's write-back. -/
def OnlyWroteEntry (va : Word) (acc : Access) (s t : State) : Prop := AccessFrame s t ∧ WroteEntry s va acc s.mem t.mem

theorem translateByWalk_wroteEntry (va : Word) (acc : Access) (s : State) :
    (translateByWalk va acc s).Kept (OnlyWroteEntry va acc) s := by
  unfold translateByWalk
  split
  · rename_i p up hw
    refine ⟨by rw [AccessFrame, tlbFill_eq]; cases up <;> rfl, ?_⟩
    rw [tlbFill_mem]
    cases up with
    | none => exact .inl rfl
    | some u => exact .inr ⟨p, u.1, u.2, hw, stored_writeLE _ _ rfl⟩
  · exact ⟨rfl, .inl rfl⟩

theorem translate_wroteEntry (va : Word) (acc : Access) (s : State) : (translate va acc s).Kept (OnlyWroteEntry va acc) s := by
  unfold translate
  split
  · dsimp only
    split
    · exact ⟨rfl, .inl rfl⟩
    · split
      · exact ⟨rfl, .inl rfl⟩
      · have hk := translateByWalk_wroteEntry va acc s.tick
        have hf : AccessFrame s s.tick := rfl
        cases h : translateByWalk va acc s.tick <;> rw [h] at hk <;> exact ⟨hf.trans hk.1, hk.2.congr hf⟩
  · exact translateByWalk_wroteEntry va acc s

/-- A physical access that is no write leaves RAM alone. -/
theorem physAccess_mem {acc : Access} (h : acc ≠ .write) (p n : Nat) (data : Word) (s : State) :
    (physAccess p n acc data s).2.mem = s.mem := by
  unfold physAccess
  split
  · cases acc with
    | write => exact absurd rfl h
    | read => rfl
    | exec => rfl
  · split
    · rw [plicAccess_frame]
    · split
      · rw [deviceAccess_frame]
      · rfl

theorem Res.Kept.imp {α : Type} {P Q : State → State → Prop} {s : State} {r : Res α} (hr : r.Kept P s)
    (h : ∀ t, P s t → Q s t) : r.Kept Q s := by
  cases r <;> exact h _ hr

/-- An operation and what follows it: what holds where it raised, and what follows from there where it answered. -/
theorem Res.Kept.bind {α β : Type} {P Q : State → State → Prop} {s : State} {r : Res α} {k : α → State → Res β}
    (hr : r.Kept P s) (htrap : ∀ t, P s t → Q s t) (hok : ∀ a t, P s t → (k a t).Kept (fun _ => Q s) t) :
    (r.bind k).Kept Q s := by
  cases r with
  | trap c v t => exact htrap t hr
  | ok a t =>
    have hk := hok a t hr
    simp only [Res.bind]
    cases h : k a t <;> rw [h] at hk <;> exact hk

theorem subAccess_wroteEntry {acc : Access} (h : acc ≠ .write) (va : Word) (n : Nat) (data : Word) (s : State) :
    (subAccess va n acc data s).Kept (OnlyWroteEntry va acc) s := by
  refine (translate_wroteEntry va acc s).bind (fun _ => id) fun p t ⟨hf, hw⟩ => ?_
  have hm := physAccess_mem h p n data t
  have hp := (accessKept_frame false).physAccess (fun hc => absurd hc h) p n data t
  unfold physOrTrap
  split <;> rename_i hr <;> rw [hr] at hm hp <;> exact ⟨hf.trans hp, hm.symm ▸ hw⟩

/-- An access that may cross a page boundary: what its two accesses write back, the lower first (R210). -/
theorem memOp_wroteEntry {acc : Access} (h : acc ≠ .write) (va : Word) (n : Nat) (data : Word) (s : State) :
    (memOp va n acc data s).Kept (fun _ t => ∃ m, WroteEntry s va acc s.mem m ∧
      WroteEntry s (s.cfg.xlen.trunc (va + BitVec.ofNat 64 (4096 - va.toNat % 4096))) acc m t.mem) s := by
  have first : ∀ n data, (subAccess va n acc data s).Kept (OnlyWroteEntry va acc) s := fun n data =>
    subAccess_wroteEntry h va n data s
  unfold memOp
  split
  · refine (first _ _).bind (fun t ht => ⟨t.mem, ht.2, .inl rfl⟩) fun lo t ⟨hf, hw⟩ => ?_
    have hcfg : t.cfg = s.cfg := by rw [hf]
    rw [hcfg]
    exact (subAccess_wroteEntry h _ _ _ t).bind (fun u hu => ⟨t.mem, hw, hu.2.congr hf⟩)
      fun hi u hu => ⟨t.mem, hw, hu.2.congr hf⟩
  · exact (first n data).imp fun t ht => ⟨t.mem, ht.2, .inl rfl⟩

/-- An access inside one page (R210). -/
theorem memOp_of_onePage {va : Word} {n : Nat} (h : va.toNat % 4096 + n ≤ 4096) (acc : Access) (data : Word) (s : State) :
    memOp va n acc data s = subAccess va n acc data s := by
  rw [memOp, crossesPage, decide_eq_false (by omega), if_neg Bool.false_ne_true]

end Sys2Proof.Machine
end

section
/-! PROOFS. Instructions that are no loads, stores or atomics make no access, and what the others leave in RAM (R216, R228, R241). -/

namespace Sys2Proof.Machine

open Sys2Proof.Spec

/-! ### Instructions without an access -/

section
variable {rs : Bool} {F : State → State → Prop}

theorem whenLegal_of_not_wf {i : Instr} {s : State} (h : i.wf s.cfg.xlen = false) (k : State → Out) :
    whenLegal i s k = illegal i s := if_neg (by simp [h])

theorem FinishKept.whenLegal (K : FinishKept rs F) {i : Instr} {s : State} {k : State → Out} (h : Ends F s (k s)) :
    Ends F s (whenLegal i s k) := by
  unfold Machine.whenLegal
  split
  · exact h
  · exact K.illegal

/-- An instruction that makes no access keeps what the rest of an instruction keeps. -/
theorem exec_ends_of_no_access (K : FinishKept rs F) {i : Instr} (hl : loadForm i = none) (hr : lrForm i = none)
    (hs : storing i = false) (s : State) : Ends F s (exec i s) := by
  cases i with
  | lui | auipc | addi | slti | sltiu | xori | ori | andi | add | sub | sll | slt | sltu | xor | srl | sra | or | and | mul
  | mulh | mulhsu | mulhu | div | divu | rem | remu | cLi | cAndi | cSub | cXor | cOr | cAnd => exact K.writeBack rfl
  | slli | srli | srai | addiw | slliw | srliw | sraiw | addw | subw | sllw | srlw | sraw | mulw | divw | divuw | remw | remuw
  | cAddi4spn | cAddi | cAddiw | cAddi16sp | cLui | cSrli | cSrai | cSubw | cAddw | cSlli | cMv | cAdd =>
    simp only [exec]
    exact K.whenLegal (K.writeBack rfl)
  | jal => exact K.jumpLink fun h => pcOffset_even h _
  | jalr => exact K.jumpLink fun _ => registerTarget_even _ _ _
  | cJal => exact K.whenLegal (K.jumpLink fun h => pcOffset_even h _)
  | cJalr => exact K.whenLegal (K.jumpLink fun _ => registerTarget_even _ _ _)
  | cJ => exact ⟨_, rfl, K.setPc _ _ fun h => pcOffset_even h _⟩
  | cJr =>
    simp only [exec]
    exact K.whenLegal ⟨_, rfl, K.setPc _ _ fun _ => registerTarget_even _ _ _⟩
  | beq | bne | blt | bge | bltu | bgeu | cBeqz | cBnez => exact K.branchIf rfl
  | fence | fenceI | cNop => exact K.noEffect rfl
  | csrrw | csrrs | csrrc | csrrwi | csrrsi | csrrci => exact K.doCsr
  | ecall | ebreak | cEbreak => exact K.fail
  | mret => exact K.mret
  | sret => exact K.sret
  | wfi => exact K.wfi
  | sfenceVma => exact K.sfenceVma
  | lb | lh | lw | ld | lbu | lhu | lwu | cLw | cLd | cLwsp | cLdsp => cases hl
  | lrW | lrD => cases hr
  | _ => cases hs

end

/-- An instruction of another XLEN, or with a reserved operand, is illegal: the loads and LR (R340, R345). -/
theorem exec_load_illegal {i : Instr} {f : LoadForm} {s : State} (h : loadForm i = some f) (hw : i.wf s.cfg.xlen = false) :
    exec i s = illegal i s := by
  cases i with
  | ld | lwu | cLd | cLwsp | cLdsp => exact whenLegal_of_not_wf hw _
  | lb | lh | lw | lbu | lhu | cLw => cases hw
  | _ => cases h

theorem exec_lr_illegal {i : Instr} {r : RegIdx × RegIdx × Nat} {s : State} (h : lrForm i = some r)
    (hw : i.wf s.cfg.xlen = false) : exec i s = illegal i s := by
  cases i with
  | lrD => exact whenLegal_of_not_wf hw _
  | lrW => cases hw
  | _ => cases h

/-! ### RAM after an instruction -/

/-- After its accesses an instruction leaves RAM alone. -/
theorem finishKept_mem : FinishKept true fun s t => t.mem = s.mem where
  refl _ := rfl
  trans h h' := h'.trans h
  tick _ := rfl
  setX := State.setX_mem
  setPc _ _ _ := rfl
  resv _ _ _ := rfl
  flush _ := rfl
  csr _ _ _ _ _ h := by rw [csrAccess_frame h]
  raise c v s := by rw [raise_frame c v s]
  xret l s := by rw [requestXret_frame l s]

/-- RAM after an instruction that ends without an access. -/
theorem mem_of_ends {s t : State} {o : Out} (h : Ends (fun s t => t.mem = s.mem) s o) (ht : o = .next t) : t.mem = s.mem := by
  obtain ⟨u, hu, hm⟩ := h
  obtain rfl : u = t := Host.Outcome.next.inj (hu.symm.trans ht)
  exact hm

/-- RAM after an operation and an end of the instruction that makes no access. -/
theorem mem_of_finish {α : Type} {P : Memory → Prop} {s t : State} {r : Res α} {k : α → State → Out}
    (hr : r.Kept (fun _ m => P m.mem) s) (hk : ∀ a m, Ends (fun s t => t.mem = s.mem) m (k a m)) (ht : r.finish k = .next t) :
    P t.mem := by
  obtain ⟨m, u, hu, hm, hf⟩ := finishKept_mem.finish hr hk
  obtain rfl : u = t := Host.Outcome.next.inj (hu.symm.trans ht)
  exact hf ▸ hm

/-- The address of the upper part of an access that crosses a page boundary (R210). -/
theorem upper_eq (s : State) (va k : Nat) :
    s.cfg.xlen.trunc (BitVec.ofNat 64 va + BitVec.ofNat 64 k) = BitVec.ofNat 64 ((va + k) % modulus s) := by
  have hlt := Nat.lt_of_lt_of_le (Nat.mod_lt (va + k) (modulus_pos s)) (modulus_le s)
  rw [← BitVec.ofNat_add, BitVec.toNat_eq, Xlen.trunc_toNat, BitVec.toNat_ofNat, BitVec.toNat_ofNat, Nat.mod_eq_of_lt hlt]
  exact Nat.mod_mod_of_dvd _ (Nat.pow_dvd_pow 2 s.cfg.xlen.bits_le)

/-- A load writes back at most the entries of its walks, the lower access first (R210, R228). -/
theorem load_wroteEntry {i : Instr} {f : LoadForm} {s t : State} (h : loadForm i = some f) (ht : exec i s = .next t) :
    ∃ m, WroteEntry s (BitVec.ofNat 64 (addr s f.base f.off)) .read s.mem m ∧
      WroteEntry s (BitVec.ofNat 64 ((addr s f.base f.off + (4096 - addr s f.base f.off % 4096)) % modulus s)) .read m t.mem := by
  by_cases hw : i.wf s.cfg.xlen = true
  · obtain ⟨k, off, he, -, -, ho⟩ := exists_isLoad h hw
    rw [he, doLoad, effAddr_eq ho] at ht
    have hm := memOp_wroteEntry (acc := .read) (by decide) (BitVec.ofNat 64 (addr s f.base f.off)) (loadSize k) 0 s
    rw [BitVec.toNat_ofNat, Nat.mod_eq_of_lt (addr_lt s f.base f.off), upper_eq] at hm
    refine mem_of_finish (P := fun m' => ∃ m, WroteEntry s _ .read s.mem m ∧ WroteEntry s _ .read m m') hm (fun v m => ?_) ht
    exact ⟨_, rfl, by simp⟩
  · rw [exec_load_illegal h (by simpa using hw)] at ht
    exact ⟨s.mem, .inl rfl, .inl (mem_of_ends finishKept_mem.illegal ht)⟩

/-- An aligned access of at most 8 bytes lies in one page (R604). -/
theorem onePage_of_aligned {a n : Nat} (hn : n = 4 ∨ n = 8) (h : a % n = 0) : a % 4096 + n ≤ 4096 := by
  rcases hn with rfl | rfl <;> omega

/-- LR writes back at most the entry of its walk (R228, R604). -/
theorem lr_wroteEntry {i : Instr} {rd rs1 : RegIdx} {n : Nat} {s t : State} (h : lrForm i = some (rd, rs1, n))
    (ht : exec i s = .next t) : WroteEntry s (BitVec.ofNat 64 (u s rs1)) .read s.mem t.mem := by
  by_cases hw : i.wf s.cfg.xlen = true
  · obtain ⟨he, hn⟩ := exec_lrForm h hw
    rw [he, doLr, effAddr_zero] at ht
    split at ht
    · exact .inl (mem_of_ends finishKept_mem.fail ht)
    · rename_i ha
      rw [misaligned, BitVec.toNat_ofNat, Nat.mod_eq_of_lt (u_lt s rs1), decide_eq_true_eq, not_not] at ha
      have hpage : (BitVec.ofNat 64 (u s rs1)).toNat % 4096 + n ≤ 4096 := by
        rw [BitVec.toNat_ofNat, Nat.mod_eq_of_lt (u_lt s rs1)]
        exact onePage_of_aligned hn ha
      have hm := subAccess_wroteEntry (acc := .read) (by decide) (BitVec.ofNat 64 (u s rs1)) n 0 s
      rw [memRead, memOp_of_onePage hpage] at ht
      exact mem_of_finish (P := WroteEntry s _ .read s.mem) (hm.imp (Q := fun _ m => WroteEntry s _ .read s.mem m.mem) fun _ h => h.2)
        (fun v m => ⟨_, rfl, by simp⟩) ht
  · rw [exec_lr_illegal h (by simpa using hw)] at ht
    exact .inl (mem_of_ends finishKept_mem.illegal ht)

/-! ### RAM after a fetch -/

theorem low_toNat (n : Nat) (v : Word) : (low n v).toNat = v.toNat % 2 ^ n := BitVec.toNat_setWidth n v

/-- The pc at the last two bytes of a page (R215). -/
theorem atPageEnd_iff (v : Word) : low 12 v = 0xFFE#12 ↔ v.toNat % 4096 = 0xFFE := by
  rw [BitVec.toNat_eq, low_toNat]
  rfl

/-- The address of the second half of an instruction, where the first half has been fetched. -/
theorem AccessFrame.pcPlus {s t : State} (h : AccessFrame s t) (n : Nat) : t.pcPlus n = s.pcPlus n := by
  rw [h]
  rfl

/-- The second half of an instruction at the end of a page stands at the start of the next page. -/
theorem pcPlus_onePage {s : State} (h : s.pc.toNat % 4096 = 0xFFE) : (s.pcPlus 2).toNat % 4096 + 2 ≤ 4096 := by
  have hx : s.cfg.xlen = .rv32 ∨ s.cfg.xlen = .rv64 := by cases s.cfg.xlen <;> simp
  rw [State.pcPlus, Xlen.trunc_toNat, BitVec.toNat_add, BitVec.toNat_ofNat]
  rcases hx with hx | hx <;> rw [hx, Xlen.bits] <;> omega

/-- A fetch writes back at most the entries of its walks, that of the first half first (R215, R228). -/
theorem fetch_wroteEntry (s : State) : ∃ m, WroteEntry s s.pc .exec s.mem m ∧
    (fetch s).Kept (fun _ t => WroteEntry s (s.pcPlus 2) .exec m t.mem) s := by
  have one : ∀ va n (t : State), va.toNat % 4096 + n ≤ 4096 → (fetchBytes va n t).Kept (OnlyWroteEntry va .exec) t :=
    fun va n t h => by
      rw [fetchBytes, memOp_of_onePage h]
      exact subAccess_wroteEntry (by decide) va n 0 t
  unfold fetch
  split
  · exact ⟨s.mem, .inl rfl, .inl rfl⟩
  · rename_i hodd
    rw [Bool.not_eq_true, bit0_eq, decide_eq_false_iff_not] at hodd
    split
    · rename_i hend
      rw [atPageEnd_iff] at hend
      have hlo := one s.pc 2 s (by omega)
      cases h : fetchBytes s.pc 2 s with
      | trap c v t => rw [h] at hlo; exact ⟨t.mem, hlo.2, .inl rfl⟩
      | ok lo t =>
        rw [h] at hlo
        refine ⟨t.mem, hlo.2, ?_⟩
        simp only [Res.bind]
        split
        · exact .inl rfl
        · rw [hlo.1.pcPlus]
          exact (one (s.pcPlus 2) 2 t (pcPlus_onePage hend)).bind (Q := fun _ u => WroteEntry s (s.pcPlus 2) .exec t.mem u.mem)
            (fun u hu => hu.2.congr hlo.1) fun hi u hu => hu.2.congr hlo.1
    · rename_i hend
      rw [atPageEnd_iff] at hend
      have hw := one s.pc 4 s (by omega)
      cases h : fetchBytes s.pc 4 s <;> rw [h] at hw <;> exact ⟨_, hw.2, .inl rfl⟩

end Sys2Proof.Machine
end

section
/-! PROOFS. Only storing instructions and the walker write RAM (R216, R228, R241). -/

namespace Sys2Proof.Proofs

open Sys2Proof.Machine Sys2Proof.Spec

/-- Settles O59: an instruction makes no access, or is a load or LR, whose accesses write back at most the entries of their walks;
a fetch is the same; traps and the other agents' moves have frames without RAM. -/
theorem onlyStoringInstructionsWriteRam : Obligations.OnlyStoringInstructionsWriteRam := by
  refine ⟨fun i s t hs ht => ?instruction, fun s => ?fetch, fun s => ⟨fun c v => ?_, fun i => ?_, fun m => ?_⟩⟩
  case instruction =>
    have hnone : loadForm i = none → lrForm i = none → t.mem = s.mem := fun hl hr =>
      mem_of_ends (exec_ends_of_no_access finishKept_mem hl hr hs s) ht
    refine ⟨fun hb => ?_, hnone, fun f hf => load_wroteEntry hf ht, fun rd rs1 n hf => lr_wroteEntry hf ht⟩
    cases hl : loadForm i with
    | some f =>
      obtain ⟨m, hm, hm'⟩ := load_wroteEntry hl ht
      exact (hm'.eq_of_no_update hb).trans (hm.eq_of_no_update hb)
    | none =>
      cases hr : lrForm i with
      | some f => exact (lr_wroteEntry hr ht).eq_of_no_update hb
      | none => exact hnone hl hr
  case fetch =>
    obtain ⟨m, hm, hk⟩ := fetch_wroteEntry s
    refine ⟨m, hm, ?_⟩
    cases h : fetch s <;> rw [h] at hk <;> exact hk
  · rw [raise_frame]
  · rw [takeInterrupt_frame]
  · obtain ⟨-, -, hm, -⟩ := agentMove_frame m s
    exact hm

end Sys2Proof.Proofs
end

section
/-! PROOFS. Accesses by what their translation finds (R206, R210, R211, R228, R234): a fault of the walk, RAM, or an address outside
RAM; in one page, and in two parts across a page boundary. -/

namespace Sys2Proof.Spec

open Sys2Proof.Machine

theorem toNat_ofNat_of_lt {va : Nat} (h : va < 2 ^ 64) : (BitVec.ofNat 64 va).toNat = va := by
  rw [BitVec.toNat_ofNat, Nat.mod_eq_of_lt h]

section
variable {s : State} {va n p : Nat} {acc : Access} {up : Option (Nat × Word)} {c : Cause}

/-! ### One sub-access -/

theorem WalkFaults.translate (h : WalkFaults s va acc c) :
    translate (BitVec.ofNat 64 va) acc s = .trap c (BitVec.ofNat 64 va) s := by
  obtain ⟨hw, ht⟩ := h
  rw [Machine.translate, ht]
  simp only [translateByWalk, hw]

theorem WalkFaults.subAccess (h : WalkFaults s va acc c) (n : Nat) (data : Word) :
    subAccess (BitVec.ofNat 64 va) n acc data s = .trap c (BitVec.ofNat 64 va) s := by
  rw [Machine.subAccess, h.translate]
  rfl

/-- The translation to RAM: the walk's write-back, and the TLB as it was or with the fill (R228, R231, R233). -/
theorem MappedRam.translate (h : MappedRam s va n acc p up) :
    ∃ tlb, (tlb = s.tlb ∨ tlb = (tlbFill (BitVec.ofNat 64 va) acc p (writeBackPte up s)).tlb) ∧
      translate (BitVec.ofNat 64 va) acc s = .ok p { writeBackPte up s with tlb := tlb } := by
  cases hm : tlbMatch (BitVec.ofNat 64 va) acc s with
  | none =>
    refine ⟨_, .inr rfl, ?_⟩
    rw [Machine.translate, hm]
    simp only [translateByWalk, h.walks]
    rw [← tlbFill_eq]
  | some e =>
    obtain ⟨rfl, hp⟩ := h.tlb e hm
    refine ⟨s.tlb, .inl rfl, ?_⟩
    rw [Machine.translate, hm]
    simp only [toNat_ofNat_of_lt h.width, hp, h.walks, ↓reduceIte]
    rfl

theorem MappedRam.subAccess (h : MappedRam s va n acc p up) (data : Word) :
    ∃ tlb, (tlb = s.tlb ∨ tlb = (tlbFill (BitVec.ofNat 64 va) acc p (writeBackPte up s)).tlb) ∧
      subAccess (BitVec.ofNat 64 va) n acc data s = .ok (ramAnswer acc p n (writeBackPte up s))
        { writeBackPte up s with mem := ramAfter acc p n data (writeBackPte up s), tlb := tlb } := by
  obtain ⟨tlb, htlb, ht⟩ := h.translate
  exact ⟨tlb, htlb, subAccess_ram _ p n acc data s _ ht (by simpa using h.ram)⟩

theorem LandsOutside.subAccess (h : LandsOutside s va n acc p up) (data : Word) :
    subAccess (BitVec.ofNat 64 va) n acc data s = physOrTrap (BitVec.ofNat 64 va) p n acc data (writeBackPte up s) := by
  rw [Machine.subAccess, h.translate]
  rfl

theorem LandsOutside.subAccess_ok (h : LandsOutside s va n acc p up) {data v : Word} {m : State}
    (hp : physAccess p n acc data (writeBackPte up s) = (some v, m)) :
    Machine.subAccess (BitVec.ofNat 64 va) n acc data s = .ok v m := by
  rw [h.subAccess, physOrTrap, hp]

theorem LandsOutside.subAccess_fails (h : LandsOutside s va n acc p up) {data : Word} {m : State}
    (hp : physAccess p n acc data (writeBackPte up s) = (none, m)) :
    Machine.subAccess (BitVec.ofNat 64 va) n acc data s = .trap (.accessFault acc) (BitVec.ofNat 64 va) m := by
  rw [h.subAccess, physOrTrap, hp]

end

end Sys2Proof.Spec

namespace Sys2Proof.Machine

open Sys2Proof.Spec

/-- A sub-access has the frame of an access. -/
theorem subAccess_frame {va : Word} {n : Nat} {acc : Access} {data v : Word} {s m : State}
    (h : subAccess va n acc data s = .ok v m) : AccessFrame s m := by
  have hk := (accessKept_frame true).subAccess (fun _ => rfl) va n data (acc := acc) s
  rwa [h] at hk

/-! ### An access in one page -/

section
variable {s : State} {va n p : Nat} {up : Option (Nat × Word)} {c : Cause}

theorem memOp_onePage (hva : va < 2 ^ 64) (h : va % 4096 + n ≤ 4096) (acc : Access) (data : Word) (s : State) :
    memOp (BitVec.ofNat 64 va) n acc data s = subAccess (BitVec.ofNat 64 va) n acc data s :=
  memOp_of_onePage (by rwa [toNat_ofNat_of_lt hva]) acc data s

theorem memRead_faults (hva : va < 2 ^ 64) (hpage : va % 4096 + n ≤ 4096) (h : WalkFaults s va .read c) :
    memRead (BitVec.ofNat 64 va) n s = .trap c (BitVec.ofNat 64 va) s := by
  rw [memRead, memOp_onePage hva hpage, h.subAccess]

theorem memWrite_faults (hva : va < 2 ^ 64) (hpage : va % 4096 + n ≤ 4096) (h : WalkFaults s va .write c) (v : Word) :
    memWrite (BitVec.ofNat 64 va) n v s = .trap c (BitVec.ofNat 64 va) s := by
  rw [memWrite, memOp_onePage hva hpage, h.subAccess]
  rfl

theorem memRead_mapped (h : MappedRam s va n .read p up) : ∃ tlb,
    memRead (BitVec.ofNat 64 va) n s = .ok (Memory.readLE (writeBackPte up s).mem p n) { writeBackPte up s with tlb := tlb } := by
  obtain ⟨tlb, -, hs⟩ := h.subAccess 0
  exact ⟨tlb, by rw [memRead, memOp_onePage h.width h.onePage, hs]; rfl⟩

theorem memWrite_mapped (h : MappedRam s va n .write p up) (v : Word) : ∃ tlb, memWrite (BitVec.ofNat 64 va) n v s =
    .ok () { writeBackPte up s with mem := Memory.writeLE (writeBackPte up s).mem p n v, tlb := tlb } := by
  obtain ⟨tlb, -, hs⟩ := h.subAccess v
  exact ⟨tlb, by rw [memWrite, memOp_onePage h.width h.onePage, hs]; rfl⟩

theorem memRead_plain (hn : n ≤ 8) (hva : va < 2 ^ 64) (h : PlainRam s va n) : ∃ tlb,
    memRead (BitVec.ofNat 64 va) n s = .ok (Memory.readLE s.mem va n) { s with tlb := tlb } := by
  have hb := memOp_bare (BitVec.ofNat 64 va) n .read 0 s hn h.bare (h.tlb.toIdentity h.bare)
  rw [toNat_ofNat_of_lt hva] at hb
  exact hb h.fits h.ram

theorem memWrite_plain (hn : n ≤ 8) (hva : va < 2 ^ 64) (h : PlainRam s va n) (v : Word) : ∃ tlb,
    memWrite (BitVec.ofNat 64 va) n v s = .ok () { s with mem := Memory.writeLE s.mem va n v, tlb := tlb } := by
  have hb := memOp_bare (BitVec.ofNat 64 va) n .write v s hn h.bare (h.tlb.toIdentity h.bare)
  rw [toNat_ofNat_of_lt hva] at hb
  obtain ⟨tlb, ht⟩ := hb h.fits h.ram
  exact ⟨tlb, by rw [memWrite, ht]; rfl⟩

end

/-! ### An access in two parts -/

/-- Across a page boundary: the lower part's access and, where it answers, the upper part's (R210, R213). -/
theorem memOp_twoParts {va n k : Nat} (hva : va < 2 ^ 64) (hk : k = 4096 - va % 4096) (hkn : k < n) (acc : Access) (data : Word)
    (s : State) : memOp (BitVec.ofNat 64 va) n acc data s =
      (subAccess (BitVec.ofNat 64 va) k acc data s).bind fun lo m =>
        (subAccess (BitVec.ofNat 64 ((va + k) % modulus m)) (n - k) acc (data >>> (8 * k)) m).bind fun hi m' =>
          .ok (lo ||| hi <<< (8 * k)) m' := by
  subst hk
  have hcross : crossesPage (BitVec.ofNat 64 va) n = true := by
    rw [crossesPage, toNat_ofNat_of_lt hva, decide_eq_true_eq]
    omega
  simp only [memOp, hcross, ↓reduceIte, toNat_ofNat_of_lt hva, upper_eq]

section
variable {s m m' : State} {va n k q : Nat} {lo : Word} {uq : Option (Nat × Word)} {c : Cause}

theorem modulus_congr (h : AccessFrame s m) : modulus m = modulus s := by
  rw [h]
  rfl

/-- After the lower part of a load has answered, its read is the upper part's. -/
theorem memRead_of_lower (hva : va < 2 ^ 64) (hk : k = 4096 - va % 4096) (hkn : k < n)
    (h : subAccess (BitVec.ofNat 64 va) k .read 0 s = .ok lo m) : memRead (BitVec.ofNat 64 va) n s =
      (subAccess (BitVec.ofNat 64 ((va + k) % modulus s)) (n - k) .read 0 m).bind fun hi m' => .ok (lo ||| hi <<< (8 * k)) m' := by
  have hzero : (0 : Word) >>> (8 * k) = 0 := BitVec.zero_ushiftRight
  rw [memRead, memOp_twoParts hva hk hkn, h, ← modulus_congr (subAccess_frame h), hzero]
  rfl

/-- After the lower part of a store has answered, its write is the upper part's. -/
theorem memWrite_of_lower {data v : Word} (hva : va < 2 ^ 64) (hk : k = 4096 - va % 4096) (hkn : k < n)
    (h : subAccess (BitVec.ofNat 64 va) k .write data s = .ok v m) : memWrite (BitVec.ofNat 64 va) n data s =
      (subAccess (BitVec.ofNat 64 ((va + k) % modulus s)) (n - k) .write (data >>> (8 * k)) m).bind fun _ m' => .ok () m' := by
  rw [memWrite, memOp_twoParts hva hk hkn, h, ← modulus_congr (subAccess_frame h)]
  simp only [Res.bind]
  cases subAccess (BitVec.ofNat 64 ((va + k) % modulus m)) (n - k) .write (data >>> (8 * k)) m <;> rfl

end

end Sys2Proof.Machine
end

section
/-! PROOFS. Loads and stores in one page (R201, R206, R211, R214, R228, R500-R511): RAM without translation and through the page
tables, faults of a walk, the PLIC's window, and addresses that no region holds. -/

namespace Sys2Proof.Machine

open Sys2Proof.Spec

/-! ### Loads and stores by their answers -/

theorem load_bytes {i : Instr} {f : LoadForm} {s : State} (h : loadForm i = some f) (hw : i.wf s.cfg.xlen = true) :
    f.bytes ≤ 8 := by
  obtain ⟨k, off, -, hb, -, -⟩ := exists_isLoad h hw
  rw [← hb]
  cases k <;> decide

/-- A store writes at most 8 bytes, and no more than a register has (R508-R511). -/
theorem store_bytes {i : Instr} {f : StoreForm} {s : State} (h : storeForm i = some f) (hw : i.wf s.cfg.xlen = true) :
    f.bytes ≤ 8 ∧ 256 ^ f.bytes ∣ modulus s := by
  unfold modulus
  cases i with
  | sb | sh | sw | cSw | cSwsp =>
    cases h
    dsimp only
    cases s.cfg.xlen <;> decide
  | sd | cSd | cSdsp =>
    cases h
    rw [rv64_of_wf rfl hw]
    dsimp only
    decide
  | _ => cases h

/-- The source of a store, as a word and as the number of the statements, in the bytes that it writes. -/
theorem store_source {i : Instr} {f : StoreForm} {s : State} (h : storeForm i = some f) (hw : i.wf s.cfg.xlen = true) :
    (s.x f.src).toNat % 256 ^ f.bytes = u s f.src % 256 ^ f.bytes :=
  (Nat.mod_mod_of_dvd _ (store_bytes h hw).2).symm

theorem resvAfterStore_of_frame {s m t : State} (h : AccessFrame s m) (hr : ResvAfterStore m t) : ResvAfterStore s t := by
  unfold ResvAfterStore at *
  rw [h] at hr
  exact hr

/-- A load whose read is the number `v` (R500). -/
theorem exec_load_value {i : Instr} {f : LoadForm} {s m : State} {v : Nat} {w : Word} (hf : loadForm i = some f)
    (hw : i.wf s.cfg.xlen = true) (hr : memRead (BitVec.ofNat 64 (addr s f.base f.off)) f.bytes s = .ok w m) (hv : w.toNat = v)
    (hlt : v < 256 ^ f.bytes) : exec i s = .next (retired m f.rd (f.value v) f.len) := by
  subst hv
  exact exec_load_ok hf hw hr hlt

/-- A store whose write leaves RAM and the TLB new in the state `b` that the access reached (R500, R602). -/
theorem exec_store_stored {i : Instr} {f : StoreForm} {s b m : State} {M : Memory} {p n x : Nat} (hf : storeForm i = some f)
    (hw : i.wf s.cfg.xlen = true) (hr : memWrite (BitVec.ofNat 64 (addr s f.base f.off)) f.bytes (s.x f.src) s = .ok () m)
    (hb : AccessFrame s b) (hm : m = { b with mem := m.mem, tlb := m.tlb }) (hst : Stored M m.mem p n x) :
    ∃ t, exec i s = .next t ∧ Stored M t.mem p n x ∧ ResvAfterStore s t ∧
      t = { goesTo b (s.pc.toNat + f.len) with mem := t.mem, tlb := t.tlb, resv := t.resv, free := t.free } := by
  obtain ⟨t, ht, hresv, hframe⟩ := exec_store_ok hf hw hr
  have hsm : AccessFrame s m := hb.trans (by rw [AccessFrame, hm])
  have hmem : t.mem = m.mem := by rw [hframe]; rfl
  refine ⟨t, ht, hmem ▸ hst, resvAfterStore_of_frame hsm hresv, ?_⟩
  have hpc : m.pc = s.pc := by rw [hsm]
  rw [hpc] at hframe
  rw [hframe, hm]
  rfl

/-- A store that ends in the state `m` where its write answers (R500, R602). -/
theorem exec_store_at {i : Instr} {f : StoreForm} {s m : State} (hf : storeForm i = some f) (hw : i.wf s.cfg.xlen = true)
    (hr : memWrite (BitVec.ofNat 64 (addr s f.base f.off)) f.bytes (s.x f.src) s = .ok () m) (hsm : AccessFrame s m) :
    ∃ t, exec i s = .next t ∧ ResvAfterStore m t ∧ t = { goesTo m (s.pc.toNat + f.len) with resv := t.resv, free := t.free } := by
  have hpc : m.pc = s.pc := by rw [hsm]
  exact hpc ▸ exec_store_ok hf hw hr

/-! ### The frame of an access -/

theorem accessFrame_writeBackPte (s : State) (up : Option (Nat × Word)) : AccessFrame s (writeBackPte up s) := by
  cases up <;> rfl

theorem writeBackPte_frame (s : State) (up : Option (Nat × Word)) :
    writeBackPte up s = { s with mem := (writeBackPte up s).mem } := by
  cases up <;> rfl

theorem physAccess_accessFrame {p n : Nat} {acc : Access} {data : Word} {s m : State} {v : Option Word}
    (h : physAccess p n acc data s = (v, m)) : AccessFrame s m := by
  have hp := (accessKept_frame true).physAccess (fun _ => rfl) p n data s (acc := acc)
  rwa [h] at hp

/-- A rejected access to the PLIC's window has no effect (R955). -/
theorem plicAccess_rejected {off n : Nat} {acc : Access} {data : Word} {s m : State}
    (h : plicAccess off n acc data s = (none, m)) : m = s := by
  unfold plicAccess at h
  split at h
  · exact (Prod.mk.inj h).2.symm
  · split at h
    · split at h
      · cases h
      · exact (Prod.mk.inj h).2.symm
    · split at h
      · split at h
        · cases h
        · exact (Prod.mk.inj h).2.symm
      · exact (Prod.mk.inj h).2.symm

end Sys2Proof.Machine

namespace Sys2Proof.Proofs

open Sys2Proof.Machine Sys2Proof.Spec

/-- Settles O23: the read is one of RAM at any alignment (`memOp_bare`), and the forms of the loads give its value. -/
theorem loadsFromRam : Obligations.LoadsFromRam := by
  intro s i f hf hw hram
  have hn := load_bytes hf hw
  obtain ⟨tlb, hr⟩ := memRead_plain hn (addr_lt s f.base f.off) hram
  exact ⟨tlb, exec_load_value hf hw hr (readLE_toNat _ _ hn) (leNat_lt _ _ hn)⟩

/-- Settles O24: the write is one of RAM at any alignment (`memOp_bare`), followed by R602. -/
theorem storesToRam : Obligations.StoresToRam := by
  intro s i f hf hw hram
  obtain ⟨tlb, hr⟩ := memWrite_plain (store_bytes hf hw).1 (addr_lt s f.base f.off) hram (s.x f.src)
  exact exec_store_stored hf hw hr (b := s) rfl rfl (stored_writeLE _ _ (store_source hf hw))

/-- Settles O25: the translation is the walk's, with its write-back, or its fault. -/
theorem translatedLoadsAndStores : Obligations.TranslatedLoadsAndStores := by
  intro s i p up hw
  refine ⟨fun f hf => ⟨fun hm => ?_, fun c hpage hc => ?_⟩, fun f hf => ⟨fun hm => ?_, fun c hpage hc => ?_⟩⟩
  · have hn := load_bytes hf hw
    obtain ⟨tlb, hr⟩ := memRead_mapped hm
    exact ⟨tlb, exec_load_value hf hw hr (readLE_toNat _ _ hn) (leNat_lt _ _ hn)⟩
  · exact exec_load_trap hf hw (memRead_faults (addr_lt s f.base f.off) hpage hc)
  · obtain ⟨tlb, hr⟩ := memWrite_mapped hm (s.x f.src)
    refine exec_store_stored hf hw hr (b := s) rfl ?_ (stored_writeLE _ _ (store_source hf hw))
    rw [writeBackPte_frame]
  · exact exec_store_trap hf hw (memWrite_faults (addr_lt s f.base f.off) hpage hc _)

/-- Settles O27: the physical access that follows the walk's write-back reaches no region. -/
theorem accessesOutsideEveryRegionFault : Obligations.AccessesOutsideEveryRegionFault := by
  intro s i p n up hw hp hd
  have none (acc : Access) (data : Word) (h : s.cfg.inRam p n = false) :
      physAccess p n acc data (writeBackPte up s) = (none, writeBackPte up s) :=
    physAccess_nowhere (by simpa using h) (by simpa using hp) (by simpa using hd) acc data
  refine ⟨fun f hf hn hl => ⟨?_, rfl⟩, fun f hf hn hl => ⟨?_, rfl⟩⟩ <;> subst hn
  · exact exec_load_trap hf hw (hl.memRead_fails (none .read 0 hl.outside))
  · exact exec_store_trap hf hw (hl.memWrite_fails (none .write _ hl.outside))

/-- Settles O28: the physical access that follows the walk's write-back is the window access. -/
theorem loadsAndStoresReachThePlic : Obligations.LoadsAndStoresReachThePlic := by
  intro s i p n up hw hp w
  have window (acc : Access) (data : Word) (h : s.cfg.inRam p n = false) :
      physAccess p n acc data w = plicAccess (p - s.cfg.plicBase) n acc data w := by
    have hcfg : w.cfg = s.cfg := writeBackPte_cfg s up
    rw [← hcfg]
    exact physAccess_plic (hcfg ▸ h) (hcfg ▸ hp) acc data
  refine ⟨fun f hf hn hl => ?_, fun f hf hn hl => ?_⟩ <;> subst hn
  · split <;> rename_i hr <;> rw [← window _ _ hl.outside] at hr
    · exact exec_load_value hf hw (hl.memRead_ok hr) rfl (physAccess_lt (load_bytes hf hw) hr)
    · refine ⟨?_, exec_load_trap hf hw (hl.memRead_fails hr)⟩
      rw [window _ _ hl.outside] at hr
      exact plicAccess_rejected hr
  · split <;> rename_i hr <;> rw [← window _ _ hl.outside] at hr
    · exact exec_store_at hf hw (hl.memWrite_ok hr) ((accessFrame_writeBackPte s up).trans (physAccess_accessFrame hr))
    · refine ⟨?_, exec_store_trap hf hw (hl.memWrite_fails hr)⟩
      rw [window _ _ hl.outside] at hr
      exact plicAccess_rejected hr

end Sys2Proof.Proofs
end

section
/-! PROOFS. Loads and stores across a page boundary (R209-R213, R228, R231, R234, R913): what the instruction does after its lower part
has answered. -/

namespace Sys2Proof.Spec

open Sys2Proof.Machine

/-- The first part of an access, where a walk takes it to RAM. -/
theorem MappedRam.firstPart {s : State} {va n p : Nat} {acc : Access} {up : Option (Nat × Word)}
    (h : MappedRam s va n acc p up) (data : Word) : ∃ m,
      Machine.subAccess (BitVec.ofNat 64 va) n acc data s = .ok (ramAnswer acc p n (writeBackPte up s)) m ∧
      m.mem = ramAfter acc p n data (writeBackPte up s) ∧ FirstPart s m va n acc data p up := by
  obtain ⟨tlb, htlb, hs⟩ := h.subAccess data
  exact ⟨_, hs, rfl, ⟨_, hs⟩, rfl, htlb⟩

end Sys2Proof.Spec

namespace Sys2Proof.Machine

open Sys2Proof.Spec

theorem twoParts_lt {lo hi k l : Nat} (hlo : lo < 256 ^ k) (hhi : hi < 256 ^ l) : lo + 256 ^ k * hi < 256 ^ (k + l) := by
  rw [Nat.pow_add]
  calc
    lo + 256 ^ k * hi < 256 ^ k + 256 ^ k * hi := Nat.add_lt_add_right hlo _
    _ = 256 ^ k * (hi + 1) := by rw [Nat.mul_succ, Nat.add_comm]
    _ ≤ 256 ^ k * 256 ^ l := Nat.mul_le_mul_left _ hhi

/-! ### Loads -/

/-- The lower part of the load `i`, `k` bytes up to the end of the page, has answered the bytes `w` in `m`. -/
structure LowerLoaded (s m : State) (i : Instr) (f : LoadForm) (k : Nat) (w : Word) : Prop where
  form : loadForm i = some f
  wf : i.wf s.cfg.xlen = true
  part : k = 4096 - addr s f.base f.off % 4096
  crosses : k < f.bytes
  answered : subAccess (BitVec.ofNat 64 (addr s f.base f.off)) k .read 0 s = .ok w m
  bytes : w.toNat < 256 ^ k

namespace LowerLoaded

variable {s m m' : State} {i : Instr} {f : LoadForm} {k q : Nat} {w hi : Word} {uq : Option (Nat × Word)} {c : Cause}

theorem memRead (h : LowerLoaded s m i f k w) : memRead (BitVec.ofNat 64 (addr s f.base f.off)) f.bytes s =
    (subAccess (BitVec.ofNat 64 ((addr s f.base f.off + k) % modulus s)) (f.bytes - k) .read 0 m).bind
      fun hi m' => .ok (w ||| hi <<< (8 * k)) m' :=
  memRead_of_lower (addr_lt s f.base f.off) h.part h.crosses h.answered

/-- The upper part's access raises. -/
theorem trap {tval : Word} (h : LowerLoaded s m i f k w)
    (hr : subAccess (BitVec.ofNat 64 ((addr s f.base f.off + k) % modulus s)) (f.bytes - k) .read 0 m = .trap c tval m') :
    ExecRaises i s m' c tval :=
  exec_load_trap h.form h.wf (by rw [h.memRead, hr]; rfl)

/-- The upper part's access answers: the value is that of both parts. -/
theorem ok (h : LowerLoaded s m i f k w)
    (hr : subAccess (BitVec.ofNat 64 ((addr s f.base f.off + k) % modulus s)) (f.bytes - k) .read 0 m = .ok hi m')
    (hlt : hi.toNat < 256 ^ (f.bytes - k)) :
    exec i s = .next (retired m' f.rd (f.value (w.toNat + 256 ^ k * hi.toNat : Nat)) f.len) := by
  have hn := load_bytes h.form h.wf
  have hkn : k + (f.bytes - k) = f.bytes := Nat.add_sub_of_le h.crosses.le
  exact exec_load_value h.form h.wf (by rw [h.memRead, hr]; rfl) (or_shiftLeft_toNat h.bytes hlt (by omega))
    (hkn ▸ twoParts_lt h.bytes hlt)

theorem mapped (h : LowerLoaded s m i f k w)
    (hm : MappedRam m ((addr s f.base f.off + k) % modulus s) (f.bytes - k) .read q uq) : ∃ tlb, exec i s = .next
      { retired (writeBackPte uq m) f.rd
        (f.value (w.toNat + 256 ^ k * leNat (writeBackPte uq m).mem q (f.bytes - k) : Nat)) f.len with tlb := tlb } := by
  have hn := load_bytes h.form h.wf
  obtain ⟨tlb, -, hs⟩ := hm.subAccess 0
  have hok := h.ok hs (Memory.readLE_lt _ _ _ (by omega))
  rw [ramAnswer, if_neg (by decide), readLE_toNat _ _ (by omega)] at hok
  exact ⟨tlb, hok⟩

end LowerLoaded

/-! ### Stores -/

/-- The lower part of the store `i`, `k` bytes up to the end of the page, has answered in `m`. -/
structure LowerStored (s m : State) (i : Instr) (f : StoreForm) (k : Nat) : Prop where
  form : storeForm i = some f
  wf : i.wf s.cfg.xlen = true
  part : k = 4096 - addr s f.base f.off % 4096
  crosses : k < f.bytes
  answered : ∃ v, subAccess (BitVec.ofNat 64 (addr s f.base f.off)) k .write (s.x f.src) s = .ok v m

namespace LowerStored

variable {s m m' : State} {i : Instr} {f : StoreForm} {k q : Nat} {v : Word} {uq : Option (Nat × Word)} {c : Cause}

theorem frame (h : LowerStored s m i f k) : AccessFrame s m := h.answered.elim fun _ => subAccess_frame

theorem memWrite (h : LowerStored s m i f k) : memWrite (BitVec.ofNat 64 (addr s f.base f.off)) f.bytes (s.x f.src) s =
    (subAccess (BitVec.ofNat 64 ((addr s f.base f.off + k) % modulus s)) (f.bytes - k) .write (s.x f.src >>> (8 * k)) m).bind
      fun _ m' => .ok () m' :=
  h.answered.elim fun _ => memWrite_of_lower (addr_lt s f.base f.off) h.part h.crosses

/-- The upper part's access raises. -/
theorem trap {tval : Word} (h : LowerStored s m i f k)
    (hr : subAccess (BitVec.ofNat 64 ((addr s f.base f.off + k) % modulus s)) (f.bytes - k) .write (s.x f.src >>> (8 * k)) m =
      .trap c tval m') : ExecRaises i s m' c tval :=
  exec_store_trap h.form h.wf (by rw [h.memWrite, hr]; rfl)

/-- The upper part of the source, as a word and as the number of the statements. -/
theorem source (h : LowerStored s m i f k) :
    (s.x f.src >>> (8 * k)).toNat % 256 ^ (f.bytes - k) = u s f.src / 256 ^ k % 256 ^ (f.bytes - k) := by
  rw [BitVec.toNat_ushiftRight, Nat.shiftRight_eq_div_pow, Nat.pow_mul]
  refine upperBytes_congr ?_
  rw [Nat.add_sub_of_le h.crosses.le]
  exact store_source h.form h.wf

theorem mapped (h : LowerStored s m i f k)
    (hm : MappedRam m ((addr s f.base f.off + k) % modulus s) (f.bytes - k) .write q uq) :
    ∃ t, exec i s = .next t ∧ Stored (writeBackPte uq m).mem t.mem q (f.bytes - k) (u s f.src / 256 ^ k) ∧ ResvAfterStore s t ∧
      t = { goesTo m (s.pc.toNat + f.len) with mem := t.mem, tlb := t.tlb, resv := t.resv, free := t.free } := by
  obtain ⟨tlb, -, hs⟩ := hm.subAccess (s.x f.src >>> (8 * k))
  refine exec_store_stored h.form h.wf (by rw [h.memWrite, hs]; rfl) h.frame ?_ (stored_writeLE _ _ h.source)
  rw [writeBackPte_frame]

theorem outside (h : LowerStored s m i f k)
    (ho : LandsOutside m ((addr s f.base f.off + k) % modulus s) (f.bytes - k) .write q uq)
    (hp : physAccess q (f.bytes - k) .write (s.x f.src >>> (8 * k)) (writeBackPte uq m) = (some v, m')) :
    ∃ t, exec i s = .next t ∧ ResvAfterStore s t ∧
      t = { goesTo m' (s.pc.toNat + f.len) with resv := t.resv, free := t.free } := by
  have hf := h.frame.trans ((accessFrame_writeBackPte m uq).trans (physAccess_accessFrame hp))
  obtain ⟨t, ht, hr, he⟩ := exec_store_at h.form h.wf (by rw [h.memWrite, ho.subAccess_ok hp]; rfl) hf
  exact ⟨t, ht, resvAfterStore_of_frame hf hr, he⟩

end LowerStored

/-- A fault of the lower part's access raises, and nothing else happens (R211). -/
theorem load_lower_trap {s m : State} {i : Instr} {f : LoadForm} {k : Nat} {c : Cause} {tval : Word} (hf : loadForm i = some f)
    (hw : i.wf s.cfg.xlen = true) (hk : k = 4096 - addr s f.base f.off % 4096) (hkn : k < f.bytes)
    (h : subAccess (BitVec.ofNat 64 (addr s f.base f.off)) k .read 0 s = .trap c tval m) : ExecRaises i s m c tval :=
  exec_load_trap hf hw (by rw [memRead, memOp_twoParts (addr_lt s f.base f.off) hk hkn, h]; rfl)

theorem store_lower_trap {s m : State} {i : Instr} {f : StoreForm} {k : Nat} {c : Cause} {tval : Word}
    (hf : storeForm i = some f) (hw : i.wf s.cfg.xlen = true) (hk : k = 4096 - addr s f.base f.off % 4096) (hkn : k < f.bytes)
    (h : subAccess (BitVec.ofNat 64 (addr s f.base f.off)) k .write (s.x f.src) s = .trap c tval m) : ExecRaises i s m c tval :=
  exec_store_trap hf hw (by rw [memWrite, memOp_twoParts (addr_lt s f.base f.off) hk hkn, h]; rfl)

end Sys2Proof.Machine

namespace Sys2Proof.Proofs

open Sys2Proof.Machine Sys2Proof.Spec

/-- Settles O26: an access in two parts is the lower part's and then the upper part's (`memOp_twoParts`), and each is what its
translation finds. -/
theorem pageCrossingLoadsAndStores : Obligations.PageCrossingLoadsAndStores := by
  intro s i hw
  constructor
  case left =>
    intro f hf va k l upper rest hk
    have hn := load_bytes hf hw
    have second : ∀ (w : Word) m, subAccess (BitVec.ofNat 64 va) k .read 0 s = .ok w m → w.toNat < 256 ^ k → rest w.toNat m := by
      intro w m h hlt
      have hl : LowerLoaded s m i f k w := ⟨hf, hw, rfl, hk, h, hlt⟩
      refine ⟨fun c hc => hl.trap (hc.subAccess _ _), fun q uq hm => hl.mapped hm, fun q uq ho => ?_⟩
      split <;> rename_i hp
      · exact hl.ok (ho.subAccess_ok hp) (physAccess_lt (by omega) hp)
      · exact hl.trap (ho.subAccess_fails hp)
    refine ⟨fun c hc => load_lower_trap hf hw rfl hk (hc.subAccess _ _), fun p up hm => ?_, fun p up ho => ?_⟩
    · obtain ⟨m, h, hmem, hfirst⟩ := hm.firstPart 0
      refine ⟨m, hfirst, hmem, ?_⟩
      have hm' : m.mem = (writeBackPte up s).mem := hmem
      rw [hm', ← readLE_toNat _ _ (by omega : k ≤ 8)]
      exact second _ m h (Memory.readLE_lt _ _ _ (by omega))
    · split <;> rename_i hp
      · exact second _ _ (ho.subAccess_ok hp) (physAccess_lt (by omega) hp)
      · exact load_lower_trap hf hw rfl hk (ho.subAccess_fails hp)
  case right =>
    intro f hf va k l upper rest hk
    have second : ∀ m, (∃ v, subAccess (BitVec.ofNat 64 va) k .write (s.x f.src) s = .ok v m) → rest m := by
      intro m h
      have hl : LowerStored s m i f k := ⟨hf, hw, rfl, hk, h⟩
      refine ⟨fun c hc => hl.trap (hc.subAccess _ _), fun q uq hm => hl.mapped hm, fun q uq ho => ?_⟩
      split <;> rename_i hp
      · exact hl.outside ho hp
      · exact hl.trap (ho.subAccess_fails hp)
    refine ⟨fun c hc => store_lower_trap hf hw rfl hk (hc.subAccess _ _), fun p up hm => ?_, fun p up ho => ?_⟩
    · obtain ⟨m, h, hmem, hfirst⟩ := hm.firstPart (s.x f.src)
      refine ⟨m, hfirst, ?_, second m ⟨_, h⟩⟩
      have hd : 256 ^ k ∣ 256 ^ f.bytes := Nat.pow_dvd_pow 256 hk.le
      rw [hmem]
      refine stored_writeLE _ _ ?_
      rw [← Nat.mod_mod_of_dvd _ hd, store_source hf hw, Nat.mod_mod_of_dvd _ hd]
    · split <;> rename_i hp
      · exact second _ ⟨_, ho.subAccess_ok hp⟩
      · exact store_lower_trap hf hw rfl hk (ho.subAccess_fails hp)

end Sys2Proof.Proofs
end

section
/-! PROOFS. Atomics that raise (R209, R211, R604, R605): a misaligned address, a fault of the walk, and no region at the address. -/

namespace Sys2Proof.Machine

open Sys2Proof.Spec

theorem misaligned_of_u {s : State} {r : RegIdx} {n : Nat} (h : u s r % n ≠ 0) : misaligned (BitVec.ofNat 64 (u s r)) n = true := by
  rw [misaligned, toNat_ofNat_of_lt (u_lt s r), decide_eq_true h]

theorem exec_lr_misaligned {i : Instr} {rd rs1 : RegIdx} {n : Nat} {s : State} (h : lrForm i = some (rd, rs1, n))
    (hw : i.wf s.cfg.xlen = true) (ha : u s rs1 % n ≠ 0) : ExecRaises i s s .loadMisaligned (BitVec.ofNat 64 (u s rs1)) := by
  obtain ⟨he, -⟩ := exec_lrForm h hw
  exact execRaises_of_fail (by rw [he, doLr, effAddr_zero, misaligned_of_u ha]; rfl)

theorem exec_sc_misaligned {i : Instr} {rd rs1 rs2 : RegIdx} {n : Nat} {s : State} (h : scForm i = some (rd, rs1, rs2, n))
    (hw : i.wf s.cfg.xlen = true) (ha : u s rs1 % n ≠ 0) : ExecRaises i s s .storeMisaligned (BitVec.ofNat 64 (u s rs1)) :=
  execRaises_of_fail (by rw [exec_scForm h hw, doSc, effAddr_zero, misaligned_of_u ha]; rfl)

theorem scForm_bytes {i : Instr} {rd rs1 rs2 : RegIdx} {n : Nat} (h : scForm i = some (rd, rs1, rs2, n)) : n = 4 ∨ n = 8 := by
  cases i with
  | scW => cases h; exact .inl rfl
  | scD => cases h; exact .inr rfl
  | _ => cases h

theorem exec_amo_misaligned {i : Instr} {f : AmoForm} {s : State} (h : amoForm i = some f) (hw : i.wf s.cfg.xlen = true)
    (ha : u s f.rs1 % f.bytes ≠ 0) : ExecRaises i s s .storeMisaligned (BitVec.ofNat 64 (u s f.rs1)) := by
  obtain ⟨g, hg⟩ := exists_isAmo h hw
  exact execRaises_of_fail (by rw [hg.exec, doAmo, effAddr_zero, misaligned_of_u ha]; rfl)

/-- An aligned AMO whose translation raises (R211). -/
theorem exec_amo_trap {i : Instr} {f : AmoForm} {s m : State} {c : Cause} {tval : Word} (h : amoForm i = some f)
    (hw : i.wf s.cfg.xlen = true) (ha : u s f.rs1 % f.bytes = 0)
    (ht : translate (BitVec.ofNat 64 (u s f.rs1)) .write s = .trap c tval m) : ExecRaises i s m c tval := by
  obtain ⟨g, hg⟩ := exists_isAmo h hw
  exact execRaises_of_fail (by rw [hg.exec, doAmo, effAddr_zero, misaligned_u ha, amoAccess, ht]; rfl)

end Sys2Proof.Machine

namespace Sys2Proof.Proofs

open Sys2Proof.Machine Sys2Proof.Spec

/-- Settles O32: an atomic checks its alignment, then makes one access in one page, for a write but in LR's case. -/
theorem atomicFaults : Obligations.AtomicFaults := by
  intro s i n p up hw w nowhere
  have none (acc : Access) (data : Word) {a : Nat} {acc' : Access} (h : nowhere a acc') :
      physAccess p n acc data w = (none, w) := by
    obtain ⟨-, hl, hp, hd⟩ := h
    exact physAccess_nowhere (by simpa [w] using hl.outside) (by simpa [w] using hp) (by simpa [w] using hd) acc data
  refine ⟨fun rd rs1 hf => ?lr, fun rd rs1 rs2 hf => ?sc, fun f hf hn => ?amo, rfl, rfl, rfl, rfl⟩
  case lr =>
    obtain ⟨-, hn⟩ := exec_lrForm hf hw
    refine ⟨exec_lr_misaligned hf hw, fun h => ?_, fun c ha hc => ?_⟩
    · obtain ⟨ha, hl, -, -⟩ := id h
      exact exec_lr_trap hf hw ha (hl.memRead_fails (none .read 0 h))
    · exact exec_lr_trap hf hw ha (memRead_faults (u_lt s rs1) (onePage_of_aligned hn ha) hc)
  case sc =>
    refine ⟨exec_sc_misaligned hf hw, fun h hr => ?_, fun c ha hr hc => ?_⟩
    · obtain ⟨ha, hl, -, -⟩ := id h
      exact exec_sc_trap hf hw ha hr (hl.memWrite_fails (none .write _ h))
    · exact exec_sc_trap hf hw ha hr (memWrite_faults (u_lt s rs1) (onePage_of_aligned (scForm_bytes hf) ha) hc _)
  case amo =>
    subst hn
    refine ⟨exec_amo_misaligned hf hw, fun h => ?_, fun c ha hc => exec_amo_trap hf hw ha hc.translate⟩
    obtain ⟨ha, hl, -, -⟩ := id h
    exact exec_amo_read_fails hf hw ha hl.translate (none .read 0 h)

end Sys2Proof.Proofs
end

section
/-! PROOFS. SFENCE.VMA and WFI by privilege (R238, R704, R705). -/

namespace Sys2Proof.Machine

open Sys2Proof.Spec

theorem append_toNat {m n : Nat} (a : BitVec m) (b : BitVec n) : (a ++ b).toNat = a.toNat * 2 ^ n + b.toNat := by
  rw [BitVec.toNat_append, ← Nat.shiftLeft_add_eq_or_of_lt b.isLt, Nat.shiftLeft_eq]

/-- SFENCE.VMA's word has its operands in bits 19:15 and 24:20 (R705). -/
theorem bits_sfenceVma (rs1 rs2 : RegIdx) :
    (Instr.sfenceVma rs1 rs2).bits = BitVec.ofNat 64 (0x12000073 + 2 ^ 15 * rs1.toNat + 2 ^ 20 * rs2.toNat) := by
  have h1 := rs1.isLt
  have h2 := rs2.isLt
  have h0 : (0 : RegIdx).toNat = 0 := rfl
  rw [BitVec.toNat_eq, Instr.bits, encode, Raw.bits, BitVec.toNat_setWidth, rType]
  simp only [append_toNat, BitVec.toNat_ofNat, h0]
  omega

theorem bits_wfi : Instr.wfi.bits = 0x10500073 := rfl

/-- An instruction that is illegal raises with its own word (R330). -/
theorem execRaises_of_illegal {i : Instr} {s : State} {w : Word} (h : exec i s = illegal i s) (hw : i.bits = w) :
    ExecRaises i s s .illegalInstruction w := hw ▸ execRaises_of_fail h

end Sys2Proof.Machine

namespace Sys2Proof.Proofs

open Sys2Proof.Machine Sys2Proof.Spec

/-- Settles O40, by the privilege that each instruction checks. -/
theorem fenceAndWaitPrivilege : Obligations.FenceAndWaitPrivilege := by
  intro s rs1 rs2
  refine ⟨fun hp => ?_, fun hp => ⟨execRaises_of_illegal ?_ (bits_sfenceVma rs1 rs2), execRaises_of_illegal ?_ bits_wfi⟩⟩
  · rw [exec_sfenceVma, if_neg hp, noEffect_goesTo]
    rfl
  · rw [exec_sfenceVma, if_pos hp]
  · rw [exec_wfi, if_pos hp]

end Sys2Proof.Proofs
end

section
/-! PROOFS. Fetches (R206, R207, R209, R211, R215, R234, R246, R301): an odd pc, a fetch in one page, and the two halves at the end of
a page. -/

namespace Sys2Proof.Machine

open Sys2Proof.Spec

theorem isCompressed_iff (w : Word) : isCompressed w = true ↔ w.toNat % 4 ≠ 3 := by
  rw [isCompressed, bne_iff_ne, ne_eq, BitVec.toNat_eq, low_toNat]
  rfl

/-- The instruction in the four bytes fetched (R301). -/
def rawOfWord (w : Word) : Raw := if isCompressed w then .half (low 16 w) else .full (low 32 w)

/-- The instruction as its bits, of which the low two tell its length (R301). -/
theorem rawOfWord_eq (w : Word) : rawOfWord w = if w.toNat % 4 = 3 then .full (w.setWidth 32) else .half (w.setWidth 16) := by
  rw [rawOfWord]
  by_cases h : w.toNat % 4 = 3
  · rw [if_pos h, if_neg (by simp [isCompressed_iff, h])]
    rfl
  · rw [if_neg h, if_pos ((isCompressed_iff w).2 h)]
    rfl

/-- The same, where the bytes are known as 32 bits. -/
theorem rawOfWord_of_setWidth {w : Word} {v : BitVec 32} (h : w.setWidth 32 = v) :
    rawOfWord w = if v.toNat % 4 = 3 then .full v else .half (v.setWidth 16) := by
  subst h
  have hmod : (w.setWidth 32).toNat % 4 = w.toNat % 4 := by
    rw [BitVec.toNat_setWidth]
    omega
  rw [rawOfWord_eq, hmod, BitVec.setWidth_setWidth_of_le w (by decide)]

section
variable {s m m' : State} {c : Cause} {tval v lo hi : Word} {r : Raw}

/-- A running hart with no interrupt to take runs one instruction (R300, R940). -/
theorem step_runs (hw : s.cfg.wf = true) (hr : s.runState = .running) (ht : s.turns = []) (hb : boundaryInterrupt s = none) :
    step s = (fetch s).finish execRaw := by
  rw [step, if_pos hw, ht]
  simp only [hr, ↓reduceIte, hartTurn, hb, runInstruction]

/-! ### The first access -/

theorem fetch_odd (h : s.pc.getLsbD 0 = true) : fetch s = .trap .instMisaligned s.pc s := if_pos h

theorem PcEven.not_odd (h : PcEven s) : ¬s.pc.getLsbD 0 = true := fun hodd => Bool.false_ne_true (Eq.trans h.symm hodd)

theorem PcEven.toNat_mod (h : PcEven s) : s.pc.toNat % 2 = 0 := by
  rw [PcEven, bit0_eq, decide_eq_false_iff_not] at h
  omega

/-- A fetch that is not at the last two bytes of a page is one access (R215). -/
theorem fetch_word (he : PcEven s) (hp : s.pc.toNat % 4096 ≠ 0xFFE) :
    fetch s = (subAccess s.pc 4 .exec 0 s).bind fun w m => .ok (rawOfWord w) m := by
  have hodd := he.toNat_mod
  rw [fetch, if_neg he.not_odd, if_neg (by rwa [atPageEnd_iff]), fetchBytes, memOp_of_onePage (by omega)]
  rfl

/-- At the last two bytes of a page the first half is fetched alone (R215). -/
theorem fetch_pageEnd (he : PcEven s) (hp : s.pc.toNat % 4096 = 0xFFE) : fetch s = (subAccess s.pc 2 .exec 0 s).bind fun lo m =>
    if isCompressed lo then .ok (.half (low 16 lo)) m
    else (fetchBytes (m.pcPlus 2) 2 m).bind fun hi m' => .ok (.full (low 16 hi ++ low 16 lo)) m' := by
  rw [fetch, if_neg he.not_odd, if_pos (by rwa [atPageEnd_iff]), fetchBytes, memOp_of_onePage (by omega)]

/-- The bytes of the first access. -/
def firstBytes (s : State) : Nat := if s.pc.toNat % 4096 = 0xFFE then 2 else 4

theorem fetch_first_trap (he : PcEven s) (h : subAccess s.pc (firstBytes s) .exec 0 s = .trap c tval m) :
    fetch s = .trap c tval m := by
  by_cases hp : s.pc.toNat % 4096 = 0xFFE
  · rw [firstBytes, if_pos hp] at h
    rw [fetch_pageEnd he hp, h]
    rfl
  · rw [firstBytes, if_neg hp] at h
    rw [fetch_word he hp, h]
    rfl

theorem fetch_pageEnd_half (he : PcEven s) (hp : s.pc.toNat % 4096 = 0xFFE) (h : subAccess s.pc 2 .exec 0 s = .ok lo m)
    (hc : lo.toNat % 4 ≠ 3) : fetch s = .ok (.half (lo.setWidth 16)) m := by
  rw [fetch_pageEnd he hp, h, Res.bind, if_pos ((isCompressed_iff lo).2 hc)]
  rfl

/-- The address of the second half of an instruction. -/
theorem pcPlus_ofNat (s : State) : s.pcPlus 2 = BitVec.ofNat 64 ((s.pc.toNat + 2) % modulus s) := by
  rw [← upper_eq, BitVec.ofNat_toNat, BitVec.setWidth_eq]
  rfl

/-- A 4-byte instruction at the end of a page: its second half is fetched from the next page (R215). -/
theorem fetch_pageEnd_full (he : PcEven s) (hp : s.pc.toNat % 4096 = 0xFFE) (h : subAccess s.pc 2 .exec 0 s = .ok lo m)
    (hc : lo.toNat % 4 = 3) : fetch s = (subAccess (BitVec.ofNat 64 ((s.pc.toNat + 2) % modulus s)) 2 .exec 0 m).bind
      fun hi m' => .ok (.full (hi.setWidth 16 ++ lo.setWidth 16)) m' := by
  rw [fetch_pageEnd he hp, h, Res.bind, if_neg (by simp [isCompressed_iff, hc]), (subAccess_frame h).pcPlus, fetchBytes,
    memOp_of_onePage (pcPlus_onePage hp), pcPlus_ofNat]
  rfl

end

/-- The low bytes of a read, as bits. -/
theorem setWidth_readLE (M : Memory) (p : Nat) {n : Nat} (hn : n ≤ 8) (k : Nat) :
    (Memory.readLE M p n).setWidth k = BitVec.ofNat k (leNat M p n) := by
  rw [← readLE_toNat M p hn, BitVec.ofNat_toNat]

end Sys2Proof.Machine

namespace Sys2Proof.Proofs

open Sys2Proof.Machine Sys2Proof.Spec

/-- Settles O7: a fetch is one access, or two at the end of a page, and each is what its translation finds. -/
theorem fetchFaultsAndPageEnds : Obligations.FetchFaultsAndPageEnds := by
  intro s hw hr ht hb a upper raises second
  have hstep := step_runs hw hr ht hb
  have hpc : BitVec.ofNat 64 a = s.pc := by rw [BitVec.ofNat_toNat, BitVec.setWidth_eq]
  have traps : ∀ {c v m}, fetch s = .trap c (BitVec.ofNat 64 v) m → raises m c v := fun h =>
    ⟨_, by rw [hstep, h]; rfl, raise_raises _ _ _⟩
  have runs : ∀ {r m}, fetch s = .ok r m → step s = execRaw r m := fun h => by rw [hstep, h]; rfl
  refine ⟨fun hodd => ⟨traps (by rw [hpc]; exact fetch_odd hodd), rfl⟩, fun he => ?_⟩
  have first : ∀ {c v m}, subAccess (BitVec.ofNat 64 a) (firstBytes s) .exec 0 s = .trap c (BitVec.ofNat 64 v) m → raises m c v :=
    fun h => traps (fetch_first_trap he (by rwa [hpc] at h))
  have after : ∀ {lo m}, a % 4096 = 0xFFE → subAccess (BitVec.ofNat 64 a) 2 .exec 0 s = .ok lo m → lo.toNat % 4 = 3 →
      second (lo.setWidth 16) m := by
    intro lo m hend h hc
    rw [hpc] at h
    have hfetch := fetch_pageEnd_full he hend h hc
    refine ⟨fun c hf => traps (by rw [hfetch, hf.subAccess]; rfl), fun q uq hi hm hhi => ?_, fun q uq ho => ?_⟩
    · obtain ⟨tlb, -, hs⟩ := hm.subAccess 0
      refine ⟨tlb, runs ?_⟩
      rw [hfetch, hs, hhi, ← setWidth_readLE _ _ (by decide)]
      rfl
    · split <;> rename_i hp
      · exact runs (by rw [hfetch, ho.subAccess_ok hp]; rfl)
      · exact traps (by rw [hfetch, ho.subAccess_fails hp]; rfl)
  refine ⟨fun c hf => first (hf.subAccess _ _), ?nowhere, ?word, ?wordOutside, ?half, ?halfOutside⟩
  case nowhere =>
    rintro p up n hn ho hregion
    have hfails : physAccess p n .exec 0 (writeBackPte up s) = (none, writeBackPte up s) := by
      by_cases hp : s.cfg.inPlic p n = true
      · rw [physAccess_plic (by simpa using ho.outside) (by simpa using hp)]
        exact if_pos (.inl rfl)
      · exact physAccess_nowhere (by simpa using ho.outside) (by simpa using hp) (by simpa using hregion.resolve_left hp) _ _
    refine ⟨first ?_, rfl⟩
    rw [firstBytes, ← hn]
    exact ho.subAccess_fails hfails
  case word =>
    intro p up w hend hm hword
    obtain ⟨tlb, -, hs⟩ := hm.subAccess 0
    refine ⟨tlb, runs ?_⟩
    rw [fetch_word he hend, ← hpc, hs, ← rawOfWord_of_setWidth (hword ▸ setWidth_readLE _ _ (by decide) 32)]
    rfl
  case wordOutside =>
    intro p up hend ho
    split <;> rename_i hp
    · refine runs ?_
      rw [fetch_word he hend, ← hpc, ho.subAccess_ok hp, ← rawOfWord_eq]
      rfl
    · exact first (by rw [firstBytes, if_neg hend]; exact ho.subAccess_fails hp)
  case half =>
    intro p up lo hend hm hlo
    obtain ⟨m, h, hmem, hfirst⟩ := hm.firstPart 0
    have hv : lo = (ramAnswer .exec p 2 (writeBackPte up s)).setWidth 16 := hlo.trans (setWidth_readLE _ _ (by decide) 16).symm
    generalize ramAnswer .exec p 2 (writeBackPte up s) = v at h hv
    subst hv
    have hmod : (v.setWidth 16).toNat % 4 = v.toNat % 4 := by
      rw [BitVec.toNat_setWidth]
      omega
    rw [hmod]
    refine ⟨fun hc => ⟨m.tlb, ?_⟩, fun hc => ⟨m, hfirst, hmem, after hend h hc⟩⟩
    rw [runs (fetch_pageEnd_half he hend (hpc ▸ h) hc)]
    congr 1
    rw [hfirst.frame, hmem]
    rfl
  case halfOutside =>
    intro p up hend ho
    split <;> rename_i hp
    · exact first (by rw [firstBytes, if_pos hend]; exact ho.subAccess_fails hp)
    · have h := ho.subAccess_ok hp
      exact ⟨fun hc => runs (fetch_pageEnd_half he hend (hpc ▸ h) hc), after hend h⟩

end Sys2Proof.Proofs
end

section
/-! PROOFS. The walk at one level (R221-R229), in the numbers of the statements: its checks in their order, and what a leaf translates
to. -/

namespace Sys2Proof.Machine

open Sys2Proof.Spec

/-! ### The entry -/

theorem pteInvalid_iff (d : PtDesc) (v : Word) : pteInvalid d v = true ↔ v.toNat.testBit 0 = false ∨
    (v.toNat.testBit 1 = false ∧ v.toNat.testBit 2 = true) ∨ (d.pteSize = 8 ∧ v.toNat / 2 ^ 54 ≠ 0) := by
  have hfield : field v 54 10 = v.toNat / 2 ^ 54 := by
    rw [field_eq]
    exact Nat.mod_eq_of_lt (by omega)
  simp only [pteInvalid, pteV, pteR, pteW, hfield, BitVec.testBit_toNat, Bool.or_eq_true, Bool.and_eq_true, Bool.not_eq_true',
    decide_eq_true_eq, or_assoc]

theorem pteNonLeaf_iff (v : Word) : pteNonLeaf v = true ↔ v.toNat.testBit 1 = false ∧ v.toNat.testBit 3 = false := by
  simp only [pteNonLeaf, pteR, pteX, BitVec.testBit_toNat, Bool.and_eq_true, Bool.not_eq_true']

/-- The next table (R224). -/
theorem descPpn_eq (d : PtDesc) (v : Word) : d.ppn v = v.toNat / 2 ^ 10 % 2 ^ (if d.pteSize = 4 then 22 else 44) := by
  unfold PtDesc.ppn
  split <;> exact field_eq v 10 _

/-! ### One level -/

section
variable {d : PtDesc} {va : Word} {acc : Access} {s : State} {l : LevelDesc} {below : List LevelDesc} {a ea : Nat}

theorem walkFrom_outside (he : a + l.vpn va * d.pteSize = ea) (hr : s.cfg.inRam ea d.pteSize = false) :
    walkFrom d va acc s (l :: below) a = .fault (.accessFault acc) := by
  simp [walkFrom, he, hr]

theorem walkFrom_invalid (he : a + l.vpn va * d.pteSize = ea) (hr : s.cfg.inRam ea d.pteSize = true)
    (hi : pteInvalid d (Memory.readLE s.mem ea d.pteSize) = true) :
    walkFrom d va acc s (l :: below) a = .fault (.pageFault acc) := by
  simp [walkFrom, he, hr, hi]

theorem walkFrom_nonLeaf (he : a + l.vpn va * d.pteSize = ea) (hr : s.cfg.inRam ea d.pteSize = true)
    (hi : pteInvalid d (Memory.readLE s.mem ea d.pteSize) = false)
    (hn : pteNonLeaf (Memory.readLE s.mem ea d.pteSize) = true) : walkFrom d va acc s (l :: below) a =
      let pte := Memory.readLE s.mem ea d.pteSize
      if pteU pte || pteA pte || pteD pte then .fault (.pageFault acc) else walkFrom d va acc s below (d.ppn pte * 4096) := by
  simp [walkFrom, he, hr, hi, hn]

theorem walkFrom_leaf (he : a + l.vpn va * d.pteSize = ea) (hr : s.cfg.inRam ea d.pteSize = true)
    (hi : pteInvalid d (Memory.readLE s.mem ea d.pteSize) = false)
    (hn : pteNonLeaf (Memory.readLE s.mem ea d.pteSize) = false) :
    walkFrom d va acc s (l :: below) a = walkLeaf d va acc s ea (Memory.readLE s.mem ea d.pteSize) l below := by
  simp [walkFrom, he, hr, hi, hn]

end

/-! ### A leaf -/

/-- The access is refused by the leaf's rights or by its U bit (R225, R226). -/
theorem leafRefused_iff (s : State) (acc : Access) (v : Word) :
    (!leafAllows s.mxr acc v || !leafAdmits s.priv s.sum acc v) = true ↔
      (acc = .read ∧ v.toNat.testBit 1 = false ∧ (s.mstatusBit 19 = false ∨ v.toNat.testBit 3 = false)) ∨
      (acc = .write ∧ v.toNat.testBit 2 = false) ∨ (acc = .exec ∧ v.toNat.testBit 3 = false) ∨
      (s.priv = .user ∧ v.toNat.testBit 4 = false) ∨
      (s.priv = .supervisor ∧ v.toNat.testBit 4 = true ∧ (s.mstatusBit 18 = false ∨ acc = .exec)) := by
  have hmxr : s.mxr = s.mstatusBit 19 := rfl
  have hsum : s.sum = s.mstatusBit 18 := rfl
  rw [hmxr, hsum]
  generalize s.mstatusBit 19 = mxr
  generalize s.mstatusBit 18 = sum
  cases acc <;> cases s.priv <;> simp [leafAllows, leafAdmits, pteR, pteW, pteX, pteU, BitVec.testBit_toNat]

/-- A lower page number that is not 0: the superpage is misaligned (R227). -/
theorem lowerPpn_iff (below : List LevelDesc) (v : Word) : below.any (fun m => m.ppn v ≠ 0) = true ↔
    ∃ m ∈ below, v.toNat / 2 ^ m.ppnLo % 2 ^ m.ppnWidth ≠ 0 := by
  simp only [List.any_eq_true, decide_eq_true_eq, LevelDesc.ppn, field_eq]

end Sys2Proof.Machine

namespace Sys2Proof.Proofs

open Sys2Proof.Machine Sys2Proof.Spec

/-- Settles O41, by the checks of one level in their order: an entry that a clause names is refused by its own check or by an earlier
one with the same fault. -/
theorem walkChecks : Obligations.WalkChecks := by
  intro d va acc s l below a ea pte walked hsize
  have he : a + l.vpn va * d.pteSize = ea := by rw [LevelDesc.vpn, field_eq]
  have hpte : (Memory.readLE s.mem ea d.pteSize).toNat = pte := readLE_toNat s.mem ea hsize
  have hinv := pteInvalid_iff d (Memory.readLE s.mem ea d.pteSize)
  have hnl := pteNonLeaf_iff (Memory.readLE s.mem ea d.pteSize)
  have hppn := descPpn_eq d (Memory.readLE s.mem ea d.pteSize)
  have href := leafRefused_iff s acc (Memory.readLE s.mem ea d.pteSize)
  have hlow := lowerPpn_iff below (Memory.readLE s.mem ea d.pteSize)
  have huad : (pteU (Memory.readLE s.mem ea d.pteSize) || pteA (Memory.readLE s.mem ea d.pteSize) ||
      pteD (Memory.readLE s.mem ea d.pteSize)) = (pte.testBit 4 || pte.testBit 6 || pte.testBit 7) := by
    rw [← hpte]; rfl
  rw [hpte] at hinv hnl hppn href hlow
  refine ⟨walkFrom_outside he, fun hr => ⟨fun h => walkFrom_invalid he hr (hinv.2 h), fun h1 h3 h => ?_,
    fun h0 h1 h2 h3 h4 h6 h7 h54 => ?_, fun hleaf h => ?_⟩⟩
  · cases hi : pteInvalid d (Memory.readLE s.mem ea d.pteSize) with
    | true => exact walkFrom_invalid he hr hi
    | false =>
      refine (walkFrom_nonLeaf he hr hi (hnl.2 ⟨h1, h3⟩)).trans ?_
      dsimp only
      rw [huad]
      split
      · rfl
      · rename_i hno
        obtain rfl : below = [] := h.resolve_right fun hb => hno (by simpa [or_assoc] using hb)
        rfl
  · have hi : pteInvalid d (Memory.readLE s.mem ea d.pteSize) = false := by
      rw [← Bool.not_eq_true, hinv]
      rintro (hb | ⟨-, hb⟩ | ⟨h8, hb⟩)
      · exact absurd (hb.symm.trans h0) (by decide)
      · exact absurd (hb.symm.trans h2) (by decide)
      · exact hb (h54 h8)
    refine (walkFrom_nonLeaf he hr hi (hnl.2 ⟨h1, h3⟩)).trans ?_
    dsimp only
    rw [huad, h4, h6, h7, hppn]
    rfl
  · cases hi : pteInvalid d (Memory.readLE s.mem ea d.pteSize) with
    | true => exact walkFrom_invalid he hr hi
    | false =>
      have hn : pteNonLeaf (Memory.readLE s.mem ea d.pteSize) = false := by
        rw [← Bool.not_eq_true, hnl]
        rcases hleaf with h | h <;> simp [h]
      refine (walkFrom_leaf he hr hi hn).trans ?_
      unfold walkLeaf
      rcases h with ⟨hacc, h1, hmxr⟩ | h | h | h | h | h
      · exact if_pos (href.2 (.inl ⟨hacc, h1, .inl hmxr⟩))
      · exact if_pos (href.2 (.inr (.inl h)))
      · exact if_pos (href.2 (.inr (.inr (.inl h))))
      · exact if_pos (href.2 (.inr (.inr (.inr (.inl h)))))
      · exact if_pos (href.2 (.inr (.inr (.inr (.inr h)))))
      · rw [if_pos (hlow.2 h), ite_self]

end Sys2Proof.Proofs
end

section
/-! PROOFS. What a leaf translates to (R228, R229): the levels of each mode as one chain of bit fields, the assembled address bit by
bit, and the entry's write-back. -/

namespace Sys2Proof.Machine

open Sys2Proof.Spec

/-! ### The levels of a mode (R218) -/

/-- A mode that pages, with its number of levels, the width of its virtual page number fields and the size of its entries. -/
inductive PageGeometry : PtMode → Nat → Nat → Nat → Prop
  | sv32 : PageGeometry .sv32 2 10 4
  | sv39 : PageGeometry .sv39 3 9 8
  | sv48 : PageGeometry .sv48 4 9 8

/-- The first bit above a physical address, by the size of an entry. -/
def paTop (size : Nat) : Nat := if size = 4 then 34 else 56

/-- Levels, highest first, whose fields fill the bits of an address from 12 up to `top`, with a field's end at `B`: the fields below
`B` come from either number at the same width. -/
def Chain (B : Nat) : List LevelDesc → Nat → Prop
  | [], top => top = 12
  | l :: ls, top => 12 ≤ l.paLo ∧ l.vpnLo = l.paLo ∧ l.ppnLo + 2 = l.paLo ∧ l.paLo + l.ppnWidth = top ∧
      (B ≤ l.paLo ∨ (l.vpnWidth = l.ppnWidth ∧ top ≤ B)) ∧ Chain B ls l.paLo

/-- Level `i` of a mode, counted from the last, with the levels below it and the chain that all of them form. -/
structure LevelAt (m : PtMode) (i levels width size : Nat) (l : LevelDesc) (below : List LevelDesc) : Prop where
  drop : m.desc.levels.drop (levels - 1 - i) = l :: below
  pteSize : m.desc.pteSize = size
  vpnLo : l.vpnLo = 12 + width * i
  vpnWidth : l.vpnWidth = width
  paLo : l.paLo = 12 + width * i
  below : ∀ b ∈ below, 10 ≤ b.ppnLo ∧ b.ppnLo + b.ppnWidth ≤ 10 + width * i
  chain : Chain (12 + width * i) m.desc.levels (paTop size)
  le_top : 12 + width * i ≤ paTop size

theorem PageGeometry.levelAt {m : PtMode} {i levels width size : Nat} (h : PageGeometry m levels width size) (hi : i < levels) :
    ∃ l below, LevelAt m i levels width size l below := by
  cases h <;> interval_cases i <;>
    exact ⟨_, _, rfl, rfl, rfl, rfl, rfl, by decide, by simp [Chain, PtMode.desc, paTop], by decide⟩

/-! ### The assembled address (R229) -/

/-- The bit that an assembled address has at `j`: below `B` the virtual address's, above it the entry's. -/
def assembledBit (B : Nat) (va pte : Word) (j : Nat) : Bool :=
  if j < B then va.toNat.testBit j else pte.toNat.testBit (j - 2)

/-- One field at its place: the bits of its range. -/
theorem levelField_testBit {B top : Nat} {l : LevelDesc} {ls : List LevelDesc} (h : Chain B (l :: ls) top) (va pte : Word) (j : Nat) :
    ((if l.paLo < B then l.vpn va else l.ppn pte) <<< l.paLo).testBit j =
      (decide (l.paLo ≤ j ∧ j < top) && assembledBit B va pte j) := by
  obtain ⟨-, hvpn, hppn, htop, hB, -⟩ := h
  rw [Nat.testBit_shiftLeft]
  by_cases hj : l.paLo ≤ j
  · by_cases hlow : l.paLo < B
    · obtain ⟨hw, hle⟩ := hB.resolve_left (by omega)
      rw [if_pos hlow, LevelDesc.vpn, field_eq, Nat.testBit_mod_two_pow, Nat.testBit_div_two_pow, hvpn, Nat.sub_add_cancel hj, hw]
      by_cases hjt : j < top
      · simp [assembledBit, hj, hjt, show j < B by omega, show j - l.paLo < l.ppnWidth by omega]
      · simp [hjt, show ¬ j - l.paLo < l.ppnWidth by omega]
    · rw [if_neg hlow, LevelDesc.ppn, field_eq, Nat.testBit_mod_two_pow, Nat.testBit_div_two_pow,
        show j - l.paLo + l.ppnLo = j - 2 by omega]
      by_cases hjt : j < top
      · simp [assembledBit, hj, hjt, show ¬ j < B by omega, show j - l.paLo < l.ppnWidth by omega]
      · simp [hjt, show ¬ j - l.paLo < l.ppnWidth by omega]
  · simp [hj]

theorem foldl_levels_testBit {B : Nat} (va pte : Word) (j : Nat) (ls : List LevelDesc) {top : Nat} (h : Chain B ls top) (p : Nat) :
    (ls.foldl (fun p l => p ||| (if l.paLo < B then l.vpn va else l.ppn pte) <<< l.paLo) p).testBit j =
      (p.testBit j || (decide (12 ≤ j ∧ j < top) && assembledBit B va pte j)) := by
  induction ls generalizing top p with
  | nil =>
    obtain rfl : top = 12 := h
    simp [show ¬ (12 ≤ j ∧ j < 12) by omega]
  | cons l ls ih =>
    obtain ⟨hlo, -, -, htop, -, hrest⟩ := id h
    rw [List.foldl_cons, ih hrest, Nat.testBit_or, levelField_testBit h, Bool.or_assoc, ← Bool.and_or_distrib_right,
      ← Bool.decide_or,
      decide_eq_decide.2 (show (l.paLo ≤ j ∧ j < top) ∨ (12 ≤ j ∧ j < l.paLo) ↔ 12 ≤ j ∧ j < top by omega)]

theorem assemble_testBit {d : PtDesc} {l : LevelDesc} {top : Nat} (h : Chain l.paLo d.levels top) (hl : 12 ≤ l.paLo)
    (va pte : Word) (j : Nat) :
    (assemble d l va pte).testBit j = (decide (j < max 12 top) && assembledBit l.paLo va pte j) := by
  rw [assemble, foldl_levels_testBit va pte j d.levels h, show (4096 : Nat) = 2 ^ 12 from rfl, Nat.testBit_mod_two_pow]
  by_cases h12 : j < 12
  · simp [assembledBit, h12, show j < l.paLo by omega, show ¬ 12 ≤ j by omega]
  · simp [h12, show 12 ≤ j by omega]

/-- The address of a leaf: the entry's page number, whose fields below the leaf are 0, then the address below it (R229). -/
theorem assemble_eq {m : PtMode} {i levels width size : Nat} {l : LevelDesc} {below : List LevelDesc}
    (h : LevelAt m i levels width size l below) {va pte : Word} (hpte : pte.toNat < 2 ^ (paTop size - 2))
    (hzero : pte.toNat / 2 ^ 10 % 2 ^ (width * i) = 0) :
    assemble m.desc l va pte = pte.toNat / 2 ^ 10 * 4096 + va.toNat % 2 ^ (12 + width * i) := by
  have htop : 12 ≤ paTop size := by unfold paTop; split <;> omega
  have hpage : pte.toNat / 2 ^ 10 * 4096 = 2 ^ (12 + width * i) * (pte.toNat / 2 ^ (10 + width * i)) := by
    rw [pow_add, pow_add 2 10, ← Nat.div_div_eq_div_mul, mul_assoc,
      Nat.mul_div_cancel' (Nat.dvd_of_mod_eq_zero hzero), mul_comm]
    rfl
  refine Nat.eq_of_testBit_eq fun j => ?_
  rw [assemble_testBit (h.paLo ▸ h.chain) (by rw [h.paLo]; omega), hpage,
    Nat.testBit_two_pow_mul_add _ (Nat.mod_lt _ (Nat.two_pow_pos _)), h.paLo, assembledBit, Nat.testBit_mod_two_pow,
    Nat.testBit_div_two_pow]
  by_cases hj : j < 12 + width * i
  · have hB : 12 + width * i ≤ paTop size := h.le_top
    simp [hj, show j < max 12 (paTop size) by omega]
  · rw [if_neg hj, if_neg hj, show j - (12 + width * i) + (10 + width * i) = j - 2 by omega, max_eq_right htop]
    by_cases hjt : j < paTop size
    · simp [hjt]
    · simp [hjt, Nat.testBit_lt_two_pow (hpte.trans_le (Nat.pow_le_pow_right (by decide) (show paTop size - 2 ≤ j - 2 by omega)))]

/-! ### The write-back (R228) -/

theorem setBit_true_eq (v : Word) (k : Nat) : setBit v k true = v ||| BitVec.ofNat 64 (2 ^ k) := by
  have hbit : BitVec.ofNat 64 1 <<< k = BitVec.ofNat 64 (2 ^ k) := BitVec.eq_of_toNat_eq (by simp [Nat.shiftLeft_eq])
  rw [setBit, if_pos rfl, hbit]

theorem pteUpdated_eq (cfg : Config) (acc : Access) (v : Word) : pteUpdated cfg acc v =
    if cfg.adUpdate = true ∧ (v.toNat.testBit 6 = false ∨ (acc = .write ∧ v.toNat.testBit 7 = false)) then
      some (BitVec.ofNat 64 (v.toNat ||| 64 ||| if acc = .write then 128 else 0))
    else none := by
  have hor : BitVec.ofNat 64 (v.toNat ||| 64 ||| if acc = .write then 128 else 0) =
      setBit (if acc = .write then setBit v 7 true else v) 6 true := by
    rw [BitVec.ofNat_or, BitVec.ofNat_or, BitVec.ofNat_toNat, BitVec.setWidth_eq, setBit_true_eq]
    split
    · rw [setBit_true_eq, BitVec.or_assoc, BitVec.or_comm (BitVec.ofNat 64 64), ← BitVec.or_assoc]
      rfl
    · exact BitVec.or_zero
  rw [hor]
  simp [pteUpdated, pteA, pteD, BitVec.testBit_toNat]

/-- The fields below the leaf are 0 (R227). -/
theorem lowerPpn_eq_zero {pte K lo w : Nat} (hzero : pte / 2 ^ 10 % 2 ^ K = 0) (hlo : 10 ≤ lo) (hw : lo + w ≤ 10 + K) :
    pte / 2 ^ lo % 2 ^ w = 0 := by
  refine Nat.eq_of_testBit_eq fun j => ?_
  have hbit := congrArg (Nat.testBit · (j + lo - 10)) hzero
  simp only [Nat.testBit_mod_two_pow, Nat.testBit_div_two_pow, Nat.zero_testBit, show j + lo - 10 + 10 = j + lo by omega] at hbit ⊢
  by_cases hj : j < w
  · simpa [show j + lo - 10 < K by omega, hj] using hbit
  · simp [hj]

end Sys2Proof.Machine

namespace Sys2Proof.Proofs

open Sys2Proof.Machine Sys2Proof.Spec

/-- Settles O42: the walk stops at the leaf, which no check refuses, at the address that the chain of fields assembles. -/
theorem leafTranslation : Obligations.LeafTranslation := by
  intro m va acc s i a levels width size hm hi ea pte hr hV h54 hzero hleaf hWR hacc hU hS
  have hgeo : PageGeometry m levels width size := by
    cases m <;> cases hm
    · exact absurd hi (Nat.not_lt_zero i)
    · exact .sv32
    · exact .sv39
    · exact .sv48
  obtain ⟨l, below, hl⟩ := hgeo.levelAt hi
  have hsize : size ≤ 8 := by cases hgeo <;> decide
  have he : a + l.vpn va * m.desc.pteSize = ea := by rw [LevelDesc.vpn, field_eq, hl.vpnLo, hl.vpnWidth, hl.pteSize]
  have hpte : (Memory.readLE s.mem ea size).toNat = pte := readLE_toNat s.mem ea hsize
  have hlt : pte < 2 ^ (paTop size - 2) := by
    have h256 : pte < 256 ^ size := leNat_lt s.mem ea hsize
    cases hgeo
    · exact h256
    all_goals exact (Nat.div_eq_zero_iff_lt (by decide)).1 h54
  have hinv : pteInvalid m.desc (Memory.readLE s.mem ea m.desc.pteSize) = false := by
    rw [← Bool.not_eq_true, pteInvalid_iff, hl.pteSize, hpte]
    rintro (h | ⟨h1, h2⟩ | ⟨-, h⟩)
    · exact absurd (h.symm.trans hV) (by decide)
    · exact absurd (h1.symm.trans (hWR h2)) (by decide)
    · exact h h54
  have hnl : pteNonLeaf (Memory.readLE s.mem ea m.desc.pteSize) = false := by
    rw [← Bool.not_eq_true, pteNonLeaf_iff, hl.pteSize, hpte]
    rcases hleaf with h | h <;> simp [h]
  have hrights : ¬ (!leafAllows s.mxr acc (Memory.readLE s.mem ea size) ||
      !leafAdmits s.priv s.sum acc (Memory.readLE s.mem ea size)) = true := by
    rw [leafRefused_iff, hpte]
    rintro (⟨rfl, h1, h⟩ | ⟨rfl, h⟩ | ⟨rfl, h⟩ | ⟨hp, h⟩ | ⟨hp, h4, h⟩) <;> grind
  have hlow : ¬ below.any (fun b => b.ppn (Memory.readLE s.mem ea size) ≠ 0) = true := by
    rw [lowerPpn_iff, hpte]
    rintro ⟨b, hb, hne⟩
    obtain ⟨hlo, hw⟩ := hl.below b hb
    exact hne (lowerPpn_eq_zero hzero hlo hw)
  rw [hl.drop, walkFrom_leaf he (hl.pteSize.symm ▸ hr) hinv hnl, hl.pteSize, walkLeaf, if_neg hrights, if_neg hlow,
    assemble_eq hl (hpte.symm ▸ hlt) (hpte.symm ▸ hzero), pteUpdated_eq, hpte]
  split <;> rfl

end Sys2Proof.Proofs
end

section
/-! PROOFS. Translation as a hit or a walk, where a walk starts (R217-R221, R232-R234), and what a fill leaves in the TLB (R231). -/

namespace Sys2Proof.Machine

open Sys2Proof.Spec

/-! ### The canonical check (R220) -/

theorem signExtend_low_toNat (k : Nat) (hk : k ≤ 64) (v : Word) : ((low k v).signExtend 64).toNat =
    v.toNat % 2 ^ k + if 2 ^ (k - 1) ≤ v.toNat % 2 ^ k then 2 ^ 64 - 2 ^ k else 0 := by
  have hlt : v.toNat % 2 ^ k < 2 ^ 64 := (Nat.mod_lt _ (Nat.two_pow_pos k)).trans_le (Nat.pow_le_pow_right (by decide) hk)
  rw [BitVec.toNat_signExtend, BitVec.toNat_setWidth, BitVec.msb_eq_decide, low_toNat, Nat.mod_eq_of_lt hlt]
  simp only [decide_eq_true_eq]

theorem canonical_sv39 (va : Word) : canonical .sv39 va = true ↔ va.toNat < 2 ^ 38 ∨ 2 ^ 64 - 2 ^ 38 ≤ va.toNat := by
  rw [canonical, beq_iff_eq, BitVec.toNat_eq, signExtend_low_toNat 39 (by decide)]
  split <;> omega

theorem canonical_sv48 (va : Word) : canonical .sv48 va = true ↔ va.toNat < 2 ^ 47 ∨ 2 ^ 64 - 2 ^ 47 ≤ va.toNat := by
  rw [canonical, beq_iff_eq, BitVec.toNat_eq, signExtend_low_toNat 48 (by decide)]
  split <;> omega

theorem walk_not_canonical {s : State} {va : Word} (hp : s.paging = .virtual) (h : ¬ canonical s.ptMode va = true) (acc : Access) :
    walk va acc s = .fault (.pageFault acc) := by
  simp only [walk, hp]
  exact if_neg h

theorem walk_canonical {s : State} {va : Word} (hp : s.paging = .virtual) (h : canonical s.ptMode va = true) (acc : Access) :
    walk va acc s = walkFrom s.ptMode.desc va acc s s.ptMode.desc.levels s.root := by
  simp only [walk, hp]
  exact if_pos h

/-! ### A hit or a walk (R232-R234) -/

/-- The three outcomes of a translation: the entry that the TLB holds for the access, or the walk, a choice of the model between them
counted or not. -/
theorem translate_cases (va : Word) (acc : Access) (s : State) :
    (∃ e, tlbMatch va acc s = some e ∧ ∃ n, translate va acc s = .ok (e.ppage * 4096 + va.toNat % 4096) { s with free := n }) ∨
      ∃ n, translate va acc s = translateByWalk va acc { s with free := n } := by
  cases he : tlbMatch va acc s with
  | none => exact .inr ⟨s.free, by simp only [translate, he]⟩
  | some e =>
    simp only [translate, he]
    split
    · exact .inl ⟨e, rfl, s.free, rfl⟩
    · split
      · exact .inl ⟨e, rfl, _, rfl⟩
      · exact .inr ⟨_, rfl⟩

theorem translate_of_empty {s : State} (h : s.tlb = []) (va : Word) (acc : Access) :
    translate va acc s = translateByWalk va acc { s with free := s.free } := by
  have hnone : tlbMatch va acc s = none := by rw [tlbMatch, h]; rfl
  simp only [translate, hnone]

/-! ### The fill (R231) -/

theorem TlbEntry.allows_grant_iff (e : TlbEntry) (acc b : Access) :
    (e.grant acc).allows b = true ↔ b = acc ∨ e.allows b = true := by
  cases acc <;> cases b <;> simp [TlbEntry.grant, TlbEntry.allows]

/-- The entry that a fill builds on: the one listed for the access's tag and page. -/
theorem tlbLookup_filter_iff {l : List TlbEntry} (h : l.Pairwise fun a b => a.tag ≠ b.tag) (tag : TlbTag) (page : Nat)
    (f : TlbEntry) :
    (tlbLookup l tag).filter (fun e => e.ppage == page) = some f ↔ f ∈ l ∧ f.tag = tag ∧ f.ppage = page := by
  rw [Option.filter_eq_some_iff, beq_iff_eq]
  constructor
  · rintro ⟨hf, hpage⟩
    exact ⟨(tlbLookup_some hf).1, (tlbLookup_some hf).2, hpage⟩
  · rintro ⟨hmem, rfl, hpage⟩
    exact ⟨tlbLookup_eq h hmem, hpage⟩

/-- The entry that a fill puts: the access's tag and page, with the access and the rights of the entry that had both. -/
theorem tlbFill_rights {va : Word} {acc : Access} {p : Nat} {s : State} (hr : s.cfg.inRam p 1 = true) (ht : TlbOk s) :
    ∃ e, (tlbFill va acc p s).tlb = tlbPut e s.tlb ∧ e.tag = s.tlbTag va ∧ e.ppage = p / 4096 ∧
      ∀ b, e.allows b = true ↔ b = acc ∨ ∃ f ∈ s.tlb, f.tag = s.tlbTag va ∧ f.ppage = p / 4096 ∧ f.allows b = true := by
  have hold := tlbLookup_filter_iff ht.oneEach (s.tlbTag va) (p / 4096)
  rw [tlbFill, if_pos hr]
  generalize (tlbLookup s.tlb (s.tlbTag va)).filter (fun e => e.ppage == p / 4096) = old at hold
  refine ⟨_, rfl, ?_⟩
  cases old with
  | none =>
    refine ⟨by simp, by simp, fun b => (TlbEntry.allows_grant_iff _ acc b).trans (or_congr_right ⟨fun h => ?_, ?_⟩)⟩
    · cases b <;> cases h
    · rintro ⟨f, hmem, htag, hpage, -⟩
      cases (hold f).2 ⟨hmem, htag, hpage⟩
  | some g =>
    obtain ⟨hg, hgtag, hgpage⟩ := (hold g).1 rfl
    refine ⟨by simpa using hgtag, by simpa using hgpage, fun b => (TlbEntry.allows_grant_iff _ acc b).trans
      (or_congr_right ⟨fun h => ⟨g, hg, hgtag, hgpage, h⟩, ?_⟩)⟩
    rintro ⟨f, hmem, htag, hpage, h⟩
    obtain rfl : g = f := Option.some.inj ((hold f).2 ⟨hmem, htag, hpage⟩)
    exact h

end Sys2Proof.Machine

namespace Sys2Proof.Proofs

open Sys2Proof.Machine Sys2Proof.Spec

/-- Settles O43: the choice of hit or walk first, then the walk's start by the paging flag and the mode. -/
theorem translationHitsOrWalks : Obligations.TranslationHitsOrWalks := by
  intro va acc s hit walked
  have hwalked : ∀ n, translate va acc s = translateByWalk va acc { s with free := n } → walked := by
    intro n h
    have hframe : AccessFrame s { s with free := n } := rfl
    have hcongr : walk va acc { s with free := n } = walk va acc s := walk_congr hframe rfl va acc
    refine ⟨n, ?_⟩
    rw [h, translateByWalk, hcongr]
    cases walk va acc s <;> rfl
  refine ⟨?_, fun h => hwalked _ (translate_of_empty h va acc), fun h => walk_bare h va acc, fun hp hm hlo hhi => ?_,
    fun hp hm hlo hhi => ?_, fun hp hc => walk_canonical hp ?_ acc, fun m levels width size hm => ?_⟩
  · rcases translate_cases va acc s with ⟨e, he, n, h⟩ | ⟨n, h⟩
    · obtain ⟨hmem, htag, hright⟩ := tlbMatch_some he
      exact .inl ⟨e, hmem, _, htag, hright, h, rfl⟩
    · exact .inr (hwalked n h)
  · exact walk_not_canonical hp (by rw [hm, canonical_sv39]; omega) acc
  · exact walk_not_canonical hp (by rw [hm, canonical_sv48]; omega) acc
  · cases hmode : s.ptMode with
    | bare => rfl
    | sv32 => rfl
    | sv39 => rw [hmode] at hc; exact (canonical_sv39 va).2 hc
    | sv48 => rw [hmode] at hc; exact (canonical_sv48 va).2 hc
  · cases m <;> cases hm
    all_goals
      refine ⟨rfl, rfl, fun i hi => ?_⟩
      interval_cases i <;> exact ⟨_, rfl, rfl, rfl, rfl, rfl⟩

/-- Settles O44: the entry that the fill puts stands alone with its tag, since the TLB holds one entry for each. -/
theorem tlbFillRecordsTheTranslation : Obligations.TlbFillRecordsTheTranslation := by
  intro va acc p s t
  refine ⟨tlbFill_eq va acc p s, fun hr => ?_, fun hr ht => ?_⟩
  · show (tlbFill va acc p s).tlb = s.tlb
    rw [tlbFill, if_neg (by simp [hr])]
  · obtain ⟨e, he, htag, hpage, hrights⟩ := tlbFill_rights (va := va) (acc := acc) hr ht
    have hmem : ∀ f, f ∈ t.tlb ↔ f = e ∨ (f ∈ s.tlb ∧ f.tag ≠ s.tlbTag va) := fun f => by
      rw [he, mem_tlbPut _ _ ht.oneEach, htag]
    refine ⟨e, (hmem e).2 (.inl rfl), htag, hpage, fun f hf hftag => ?_, fun f hftag => ?_, hrights⟩
    · exact ((hmem f).1 hf).resolve_right fun h => h.2 hftag
    · rw [hmem f]
      have hne : f ≠ e := fun h => hftag (h ▸ htag)
      simp [hne, hftag]

end Sys2Proof.Proofs
end

section
/-! PROOFS. The moves of the other agents (R236, R911, R942, R962); of the external trap unit, what its CSR writes leave one after the
other and what the change of privilege then does. -/

namespace Sys2Proof.Machine

open Sys2Proof.Spec

/-- A turn of an agent other than the hart is its move. -/
theorem step_agentMove {s : State} {a : Turn} {l : List Turn} (hw : s.cfg.wf = true) (ht : s.turns = a :: l) (ha : a ≠ .hart) :
    step s = .next (agentMove a { s with turns := l }) := by
  cases a <;> simp_all [step]

/-! ### The flush that follows the paging flag (R108, R238) -/

/-- The TLB is kept or emptied, and emptied where the paging flag changes. -/
def FlushesOnToggle (s t : State) : Prop := (t.tlb = s.tlb ∨ t.tlb = []) ∧ (t.paging ≠ s.paging → t.tlb = [])

theorem FlushesOnToggle.refl (s : State) : FlushesOnToggle s s := ⟨.inl rfl, fun h => absurd rfl h⟩

theorem FlushesOnToggle.trans (s t u : State) (h : FlushesOnToggle s t) (h' : FlushesOnToggle t u) : FlushesOnToggle s u := by
  obtain ⟨htlb, hflush⟩ := h
  obtain ⟨htlb', hflush'⟩ := h'
  have hempty : t.tlb = [] → u.tlb = [] := fun h => htlb'.elim (·.trans h) id
  refine ⟨htlb'.elim (fun h => htlb.imp h.trans hempty) .inr, fun hne => ?_⟩
  by_cases ht : u.paging = t.paging
  · exact hempty (hflush (ht ▸ hne))
  · exact hflush' ht

theorem flushesOnToggle_recomputePaging (s : State) : FlushesOnToggle s s.recomputePaging := by
  by_cases h : pagingOf s.priv s.ptMode = s.paging
  · exact ⟨.inl (if_pos h), fun hne => absurd h hne⟩
  · exact ⟨.inr (if_neg h), fun _ => if_neg h⟩

/-! ### One CSR write of the external trap unit -/

section
variable {s : State} {w : (BitVec 2 × Byte) × Word}

theorem trapUnitCsr_satp (h : csrPolicy s.cfg w.1.1 w.1.2 = .satp) : trapUnitCsr s w = satpWrite (fit s w.2) s := by
  rw [trapUnitCsr, h]
  rfl

theorem trapUnitCsr_value (h : csrPolicy s.cfg w.1.1 w.1.2 ≠ .satp) :
    trapUnitCsr s w = s.setCsr (csrKey w.1.1 w.1.2) w.2 := by
  unfold trapUnitCsr
  split
  · exact absurd ‹_› h
  · rfl

theorem trapUnitCsr_csrAt_ne {k : Nat} (hk : csrKey w.1.1 w.1.2 ≠ k)
    (hs : csrPolicy s.cfg w.1.1 w.1.2 = .satp → k ≠ kSatp) : (trapUnitCsr s w).csrAt k = s.csrAt k := by
  by_cases h : csrPolicy s.cfg w.1.1 w.1.2 = .satp
  · rw [trapUnitCsr_satp h, satpWrite_csrAt_ne (hs h)]
  · rw [trapUnitCsr_value h, State.csrAt_setCsr, if_neg hk.symm]

theorem trapUnitCsr_supported (h : csrPolicy s.cfg w.1.1 w.1.2 = .satp) {mode : PtMode}
    (hm : satpMode s.cfg.xlen (fit s w.2) = some mode) : (trapUnitCsr s w).ptMode = mode ∧
      (trapUnitCsr s w).root = satpRoot s.cfg.xlen (fit s w.2) ∧ (trapUnitCsr s w).csrAt kSatp = fit s w.2 := by
  rw [trapUnitCsr_satp h, satpWrite_some hm]
  exact ⟨rfl, rfl, (State.csrAt_setCsr_self s kSatp _).trans (s.cfg.xlen.trunc_trunc w.2)⟩

end

/-- What one CSR write, and any number of them, may change. -/
def TrapUnitCsrFrame (s t : State) : Prop :=
  t = { s with csr := t.csr, ptMode := t.ptMode, root := t.root, paging := t.paging, tlb := t.tlb } ∧ FlushesOnToggle s t

theorem TrapUnitCsrFrame.trans (s t u : State) (h : TrapUnitCsrFrame s t) (h' : TrapUnitCsrFrame t u) : TrapUnitCsrFrame s u :=
  ⟨by rw [h'.1, h.1], .trans s t u h.2 h'.2⟩

theorem trapUnitCsr_frame (s : State) (w : (BitVec 2 × Byte) × Word) : TrapUnitCsrFrame s (trapUnitCsr s w) := by
  by_cases h : csrPolicy s.cfg w.1.1 w.1.2 = .satp
  · rw [trapUnitCsr_satp h]
    cases hm : satpMode s.cfg.xlen (fit s w.2) with
    | none => rw [satpWrite_none hm]; exact ⟨rfl, .refl s⟩
    | some mode => rw [satpWrite_some hm]; exact ⟨rfl, flushesOnToggle_recomputePaging _⟩
  · rw [trapUnitCsr_value h]
    exact ⟨rfl, .refl s⟩

/-! ### All of them, in order -/

theorem trapUnitCsrs_frame (l : List ((BitVec 2 × Byte) × Word)) (s : State) : TrapUnitCsrFrame s (l.foldl trapUnitCsr s) :=
  foldl_frame TrapUnitCsrFrame (fun s => ⟨rfl, .refl s⟩) TrapUnitCsrFrame.trans _ trapUnitCsr_frame l s

theorem trapUnitCsrs_cfg (l : List ((BitVec 2 × Byte) × Word)) (s : State) : (l.foldl trapUnitCsr s).cfg = s.cfg := by
  rw [(trapUnitCsrs_frame l s).1]

theorem trapUnitCsrs_csrAt {c : Config} {k : Nat} {l : List ((BitVec 2 × Byte) × Word)}
    (h : ∀ w ∈ l, csrKey w.1.1 w.1.2 ≠ k ∧ (csrPolicy c w.1.1 w.1.2 = .satp → k ≠ kSatp)) {s : State} (hc : s.cfg = c) :
    (l.foldl trapUnitCsr s).csrAt k = s.csrAt k := by
  induction l generalizing s with
  | nil => rfl
  | cons w l ih =>
    obtain ⟨⟨hk, hs⟩, hl⟩ := List.forall_mem_cons.1 h
    rw [List.foldl_cons, ih hl ((trapUnitCsr_cfg s w).trans hc), trapUnitCsr_csrAt_ne hk (hc ▸ hs)]

/-- Where none of them is satp, only the CSR values change. -/
theorem trapUnitCsrs_values {c : Config} {l : List ((BitVec 2 × Byte) × Word)}
    (h : ∀ w ∈ l, ¬ csrPolicy c w.1.1 w.1.2 = .satp) {s : State} (hc : s.cfg = c) :
    l.foldl trapUnitCsr s = { s with csr := (l.foldl trapUnitCsr s).csr } := by
  induction l generalizing s with
  | nil => rfl
  | cons w l ih =>
    obtain ⟨hw, hl⟩ := List.forall_mem_cons.1 h
    have hv := trapUnitCsr_value (s := s) (w := w) (hc ▸ hw)
    rw [List.foldl_cons, ih hl ((trapUnitCsr_cfg s w).trans hc), hv]
    rfl

section
variable {s : State} {earlier later : List ((BitVec 2 × Byte) × Word)} {w : (BitVec 2 × Byte) × Word}

/-- An entry that no later write can reach holds the value written to it. -/
theorem trapUnitCsrs_lastValue (hw : ¬ csrPolicy s.cfg w.1.1 w.1.2 = .satp)
    (hlater : ∀ v ∈ later, csrKey v.1.1 v.1.2 ≠ csrKey w.1.1 w.1.2 ∧
      (csrPolicy s.cfg v.1.1 v.1.2 = .satp → csrKey w.1.1 w.1.2 ≠ kSatp)) :
    ((earlier ++ w :: later).foldl trapUnitCsr s).csrAt (csrKey w.1.1 w.1.2) = fit s w.2 := by
  have hcfg := trapUnitCsrs_cfg earlier s
  rw [List.foldl_append, List.foldl_cons, trapUnitCsrs_csrAt hlater ((trapUnitCsr_cfg _ w).trans hcfg),
    trapUnitCsr_value (hcfg ▸ hw), State.csrAt_setCsr_self, hcfg]
  rfl

/-- After the last write of satp, of a supported mode, the mode, the root and satp are that write's. -/
theorem trapUnitCsrs_lastSatp {mode : PtMode} (hw : csrPolicy s.cfg w.1.1 w.1.2 = .satp)
    (hlater : ∀ v ∈ later, ¬ csrPolicy s.cfg v.1.1 v.1.2 = .satp ∧ csrKey v.1.1 v.1.2 ≠ kSatp)
    (hm : satpMode s.cfg.xlen (fit s w.2) = some mode) :
    ((earlier ++ w :: later).foldl trapUnitCsr s).ptMode = mode ∧
    ((earlier ++ w :: later).foldl trapUnitCsr s).root = satpRoot s.cfg.xlen (fit s w.2) ∧
    ((earlier ++ w :: later).foldl trapUnitCsr s).csrAt kSatp = fit s w.2 := by
  have hcfg := trapUnitCsrs_cfg earlier s
  have hfit : fit (earlier.foldl trapUnitCsr s) w.2 = fit s w.2 := by rw [fit, hcfg, fit]
  have hmid := trapUnitCsr_supported (mode := mode) (hcfg.symm ▸ hw) (by rw [hfit, hcfg]; exact hm)
  rw [hfit, hcfg] at hmid
  have hcfg' := (trapUnitCsr_cfg _ w).trans hcfg
  rw [List.foldl_append, List.foldl_cons,
    trapUnitCsrs_csrAt (fun v hv => ⟨(hlater v hv).2, fun h => absurd h (hlater v hv).1⟩) hcfg',
    trapUnitCsrs_values (fun v hv => (hlater v hv).1) hcfg']
  exact hmid

end

/-! ### The whole move -/

section
variable (m : TrapMove) (s : State)

theorem trapUnitStep_flushes : FlushesOnToggle s (trapUnitStep m s) :=
  .trans _ (m.csrs.foldl trapUnitCsr s) _ (trapUnitCsrs_frame m.csrs s).2 (flushesOnToggle_recomputePaging
    { m.csrs.foldl trapUnitCsr s with priv := m.priv.getD (m.csrs.foldl trapUnitCsr s).priv })

theorem trapUnitStep_eq : trapUnitStep m s = { s with
    csr := (trapUnitStep m s).csr, priv := m.priv.getD s.priv, pc := fit s (m.pc.getD s.pc), runState := .running,
    ptMode := (trapUnitStep m s).ptMode, root := (trapUnitStep m s).root,
    paging := pagingOf (m.priv.getD s.priv) (trapUnitStep m s).ptMode, tlb := (trapUnitStep m s).tlb } := by
  have h := (trapUnitCsrs_frame m.csrs s).1
  unfold trapUnitStep
  dsimp only
  generalize m.csrs.foldl trapUnitCsr s = t at h
  rw [h]
  rfl

/-- Without a write of satp the mirror of satp is kept, and the TLB with the paging flag. -/
theorem trapUnitStep_of_no_satp (h : ∀ w ∈ m.csrs, ¬ csrPolicy s.cfg w.1.1 w.1.2 = .satp) :
    (trapUnitStep m s).ptMode = s.ptMode ∧ (trapUnitStep m s).root = s.root ∧
      ((trapUnitStep m s).paging = s.paging → (trapUnitStep m s).tlb = s.tlb) := by
  unfold trapUnitStep
  rw [trapUnitCsrs_values h rfl]
  exact ⟨rfl, rfl, fun hpaging => if_pos hpaging⟩

end

/-! ### The platform and the sources (R942, R962) -/

theorem platformInput_bit (k : Nat) (b : Bool) (s : State) (j : Nat) (hj : j < 64) :
    (platformInput k b s).ip.getLsbD j = if j = k then b else s.ip.getLsbD j := getLsbD_setBit s.ip k b j hj

theorem mem_dropEntry_tlb (tag : TlbTag) (s : State) (e : TlbEntry) :
    e ∈ (dropEntry tag s).tlb ↔ e ∈ s.tlb ∧ e.tag ≠ tag := by
  simp [dropEntry]

theorem raiseSource_of_none {k : Nat} {s : State} (h : k = 0 ∨ s.cfg.plicSources ≤ k) : raiseSource k s = s := by
  rw [raiseSource, plicRaise, if_pos h]
  rfl

theorem plicRaise_of_source {k : Nat} {s : State} (hk : 1 ≤ k) (hn : k < s.cfg.plicSources) :
    plicRaise k s = some (raiseSource k s) := by
  have h : ¬ (k = 0 ∨ s.cfg.plicSources ≤ k) := by omega
  rw [raiseSource, plicRaise, if_neg h]
  rfl

end Sys2Proof.Machine

namespace Sys2Proof.Proofs

open Sys2Proof.Machine Sys2Proof.Spec

/-- Settles O11: the move of each agent by its own lemmas; the external trap unit writes its CSR values in order, and the change of
privilege leaves them. -/
theorem otherAgentsMoves : Obligations.OtherAgentsMoves := by
  intro s l hw
  have hmove : ∀ {a}, s.turns = a :: l → a ≠ .hart → step s = .next (agentMove a { s with turns := l }) := step_agentMove hw
  refine ⟨fun b ht => ⟨_, hmove ht nofun, rfl, platformInput_bit 3 b _⟩,
    fun b ht => ⟨_, hmove ht nofun, rfl, platformInput_bit 7 b _⟩,
    fun tag ht => ⟨_, hmove ht nofun, rfl, mem_dropEntry_tlb tag _⟩,
    fun k ht => ⟨fun hk => ?_, fun h1 hn => ⟨_, plicRaise_of_source h1 hn, hmove ht nofun⟩⟩,
    fun m ht => ⟨fun hr => ?_, fun hx => ?_⟩⟩
  · rw [hmove ht nofun]
    exact congrArg _ (raiseSource_of_none (s := { s with turns := l }) hk)
  · rw [hmove ht nofun]
    simp only [agentMove, hr]
  · have hstep : step s = .next (trapUnitStep m { s with turns := l }) := by
      rw [hmove ht nofun]
      simp only [agentMove, hx]
    obtain ⟨htlb, hflush⟩ := trapUnitStep_flushes m { s with turns := l }
    refine ⟨_, hstep, trapUnitStep_eq m { s with turns := l }, fun k hk => trapUnitCsrs_csrAt hk rfl,
      fun earlier w later hcsrs => ?_, fun hns => ?_, htlb, hflush, fun hns => ?_⟩
    · have hcsr : ∀ k, (trapUnitStep m { s with turns := l }).csrAt k =
          ((earlier ++ w :: later).foldl trapUnitCsr { s with turns := l }).csrAt k := hcsrs ▸ fun _ => rfl
      have hmode : (trapUnitStep m { s with turns := l }).ptMode =
          ((earlier ++ w :: later).foldl trapUnitCsr { s with turns := l }).ptMode := hcsrs ▸ rfl
      have hroot : (trapUnitStep m { s with turns := l }).root =
          ((earlier ++ w :: later).foldl trapUnitCsr { s with turns := l }).root := hcsrs ▸ rfl
      rw [hcsr, hcsr, hmode, hroot]
      exact ⟨trapUnitCsrs_lastValue (s := { s with turns := l }) (w := w), fun mode hs hlater hm =>
        trapUnitCsrs_lastSatp (s := { s with turns := l }) hs hlater hm⟩
    · obtain ⟨hmode, hroot, -⟩ := trapUnitStep_of_no_satp m { s with turns := l } hns
      exact ⟨hmode, hroot⟩
    · obtain ⟨-, -, hkeeps⟩ := trapUnitStep_of_no_satp m { s with turns := l } hns
      exact hkeeps

end Sys2Proof.Proofs
end

section
/-! PROOFS. Decoding after encoding (R305, R306, R310-R330, R340): the slot that a format's words are dispatched to, and its handler's
answer on the fields that the format holds. -/

namespace Sys2Proof

/-! ### Dispatch -/

section
variable {x : Xlen} {w : BitVec 32} {h : BitVec 16}

theorem decode_full_some {k : Handler} (hs : slotOf x (w.extractLsb' 2 5) (w.extractLsb' 12 3) w[30] = some k) :
    decode x (.full w) = secondLevel x k w := by
  rw [decode, decode32, slot32_fid, hs]

theorem decode_half_some {id : BitVec 5} {c : CHandler} (hid : cid h = id) (hs : slot16 x id = some c) :
    decode x (.half h) = cSecondLevel x c h := by
  rw [decode, decode16, hid, hs]

end

/-! ### What each format's words are dispatched to -/

section
variable {x : Xlen} {k : Handler} {f7 : BitVec 7} {f3 : BitVec 3} {op5 : BitVec 5} {rs2 rs1 rd : RegIdx}

theorem decode_rType (hs : slotOf x op5 f3 f7[5] = some k) :
    decode x (.full (rType f7 rs2 rs1 f3 rd op5)) = secondLevel x k (rType f7 rs2 rs1 f3 rd op5) :=
  decode_full_some (by rwa [rType_op, rType_f3, rType_bit30])

theorem decode_iType {imm : BitVec 12} (hs : slotOf x op5 f3 imm[10] = some k) :
    decode x (.full (iType imm rs1 f3 rd op5)) = secondLevel x k (iType imm rs1 f3 rd op5) :=
  decode_full_some (by rwa [iType_op, iType_f3, iType_bit30])

theorem decode_sType {imm : BitVec 12} (hs : ∀ b, slotOf x op5 f3 b = some k) :
    decode x (.full (sType imm rs2 rs1 f3 op5)) = secondLevel x k (sType imm rs2 rs1 f3 op5) :=
  decode_full_some (by rw [sType_op, sType_f3, hs])

theorem decode_bType {offset : BitVec 12} (hs : ∀ b, slotOf x 0b11000#5 f3 b = some k) :
    decode x (.full (bType offset rs2 rs1 f3)) = secondLevel x k (bType offset rs2 rs1 f3) :=
  decode_full_some (by rw [bType_op, bType_f3, hs])

theorem decode_uType {imm : BitVec 20} (hs : ∀ f3 b, slotOf x op5 f3 b = some k) :
    decode x (.full (uType imm rd op5)) = secondLevel x k (uType imm rd op5) :=
  decode_full_some (by rw [uType_op, hs])

theorem decode_jType {offset : BitVec 20} (hs : ∀ f3 b, slotOf x 0b11011#5 f3 b = some k) :
    decode x (.full (jType offset rd)) = secondLevel x k (jType offset rd) :=
  decode_full_some (by rw [jType_op, hs])

theorem decode_amoType {f5 : BitVec 5} {aq rl : Bool} (hs : ∀ b, slotOf x 0b01011#5 f3 b = some k) :
    decode x (.full (amoType f5 aq rl rs2 rs1 f3 rd)) = secondLevel x k (amoType f5 aq rl rs2 rs1 f3 rd) :=
  decode_full_some (by rw [amoType_op, amoType_f3, hs])

end

/-- A well-formed instruction meets the XLEN column of its row and the row's constraint. -/
theorem Instr.wf_iff (i : Instr) (x : Xlen) : i.wf x = true ↔ (i.rv64Only = true → x = .rv64) ∧ i.rowOk x = true := by
  rw [Instr.wf, Bool.and_eq_true, Bool.or_eq_true, Bool.not_eq_true', beq_iff_eq, imp_iff_not_or, Bool.not_eq_true]

/-- The slot is installed for the instruction's XLEN, and its handler reads the format's fields and makes the row's check. -/
theorem decode_encode {x : Xlen} (i : Instr) (h : i.wf x = true) : decode x (encode i) = .ok i := by
  obtain ⟨hx, hrow⟩ := (Instr.wf_iff i x).1 h
  cases i
  case addi | slti | sltiu | xori | ori | andi | jalr | lb | lh | lw | lbu | lhu | fence | fenceI | csrrw | csrrs | csrrc | csrrwi
      | csrrsi | csrrci =>
    exact (decode_iType rfl).trans (by simp [secondLevel])
  case slli | srli | srai =>
    rw [Instr.rowOk] at hrow
    exact (decode_iType (by rw [shift_bit10]; rfl)).trans (by simp [secondLevel, shiftImm, checked, hrow])
  case add | sub | sll | slt | sltu | xor | srl | sra | or | and | mul | mulh | mulhsu | mulhu | div | divu | rem | remu =>
    exact (decode_rType rfl).trans (by simp [secondLevel, byFunct7, withFunct7, checked])
  case addiw | ld | lwu =>
    obtain rfl := hx rfl
    exact (decode_iType rfl).trans (by simp [secondLevel])
  case slliw | srliw | sraiw | addw | subw | sllw | srlw | sraw | mulw | divw | divuw | remw | remuw =>
    obtain rfl := hx rfl
    exact (decode_rType rfl).trans (by simp [secondLevel, byFunct7, withFunct7, shiftImmW, checked])
  case sb | sh | sw => exact (decode_sType fun _ => rfl).trans (by simp [secondLevel])
  case sd => 
    obtain rfl := hx rfl
    exact (decode_sType fun _ => rfl).trans (by simp [secondLevel])
  case beq | bne | blt | bge | bltu | bgeu => exact (decode_bType fun _ => rfl).trans (by simp [secondLevel])
  case lui | auipc => exact (decode_uType fun _ _ => rfl).trans (by simp [secondLevel])
  case jal => exact (decode_jType fun _ _ => rfl).trans (by simp [secondLevel])
  case lrW | scW | amoswapW | amoaddW | amoxorW | amoandW | amoorW | amominW | amomaxW | amominuW | amomaxuW =>
    exact (decode_amoType fun _ => rfl).trans (by simp [secondLevel, amoWords, checked])
  case lrD | scD | amoswapD | amoaddD | amoxorD | amoandD | amoorD | amominD | amomaxD | amominuD | amomaxuD =>
    obtain rfl := hx rfl
    exact (decode_amoType fun _ => rfl).trans (by simp [secondLevel, amoDoubles, checked])
  case ecall | ebreak | mret | sret | wfi => cases x <;> rfl
  case sfenceVma => exact (decode_rType rfl).trans (by simp [secondLevel, systemPriv])
  case cAddi4spn => exact (decode_half_some (cid_ciwType ..) rfl).trans (by simpa [cSecondLevel, unreserved, Instr.rowOk] using hrow)
  case cLw | cSw => exact (decode_half_some (cid_clwType ..) rfl).trans (by simp [cSecondLevel])
  case cLd | cSd =>
    obtain rfl := hx rfl
    exact (decode_half_some (cid_cldType ..) rfl).trans (by simp [cSecondLevel])
  case cNop | cLi => exact (decode_half_some (cid_ciType ..) rfl).trans (by simp [cSecondLevel])
  case cAddi | cSlli =>
    exact (decode_half_some (cid_ciType ..) rfl).trans (by simpa [cSecondLevel, unreserved, Instr.rowOk] using hrow)
  case cLui =>
    simp only [Instr.rowOk, Bool.and_eq_true, bne_iff_ne, ne_eq, BitVec.ofNat_eq_ofNat] at hrow
    exact (decode_half_some (cid_ciType ..) rfl).trans (by simp [cSecondLevel, decodeLuiAddi16sp, unreserved, hrow])
  case cAddiw =>
    obtain rfl := hx rfl
    exact (decode_half_some (cid_ciType ..) rfl).trans (by simpa [cSecondLevel, unreserved, Instr.rowOk] using hrow)
  case cAddi16sp => 
    exact (decode_half_some (cid_ci16spType ..) rfl).trans
      (by simpa [cSecondLevel, decodeLuiAddi16sp, unreserved, Instr.rowOk] using hrow)
  case cJal =>
    obtain rfl : x = .rv32 := by simpa [Instr.rowOk] using hrow
    exact (decode_half_some (cid_cjType ..) rfl).trans (by simp [cSecondLevel])
  case cJ => exact (decode_half_some (cid_cjType ..) rfl).trans (by simp [cSecondLevel])
  case cSrli | cSrai =>
    exact (decode_half_some (cid_cbAluType ..) rfl).trans
      (by simpa [cSecondLevel, decodeMiscAlu, unreserved, Instr.rowOk] using hrow)
  case cAndi => exact (decode_half_some (cid_cbAluType ..) rfl).trans (by simp [cSecondLevel, decodeMiscAlu])
  case cSub | cXor | cOr | cAnd =>
    exact (decode_half_some (cid_caType ..) rfl).trans (by simp [cSecondLevel, decodeMiscAlu])
  case cSubw | cAddw =>
    obtain rfl := hx rfl
    exact (decode_half_some (cid_caType ..) rfl).trans (by simp [cSecondLevel, decodeMiscAlu, unreserved])
  case cBeqz | cBnez => exact (decode_half_some (cid_cbType ..) rfl).trans (by simp [cSecondLevel])
  case cLwsp => exact (decode_half_some (cid_clwspType ..) rfl).trans (by simpa [cSecondLevel, unreserved, Instr.rowOk] using hrow)
  case cLdsp =>
    obtain rfl := hx rfl
    exact (decode_half_some (cid_cldspType ..) rfl).trans (by simpa [cSecondLevel, unreserved, Instr.rowOk] using hrow)
  case cJr | cJalr =>
    exact (decode_half_some (cid_crType ..) rfl).trans (by simpa [cSecondLevel, decodeCr, unreserved, Instr.rowOk] using hrow)
  case cMv | cAdd =>
    simp only [Instr.rowOk, bne_iff_ne, ne_eq, BitVec.ofNat_eq_ofNat] at hrow
    exact (decode_half_some (cid_crType ..) rfl).trans (by simp [cSecondLevel, decodeCr, hrow])
  case cEbreak => exact decode_half_some (id := 18) (by decide) rfl
  case cSwsp => exact (decode_half_some (cid_cswspType ..) rfl).trans (by simp [cSecondLevel])
  case cSdsp =>
    obtain rfl := hx rfl
    exact (decode_half_some (cid_csdspType ..) rfl).trans (by simp [cSecondLevel])

end Sys2Proof

namespace Sys2Proof.Proofs

/-- Settles O1, by the instruction's format. -/
theorem decodeOfEncode : Obligations.DecodeOfEncode := fun _ => decode_encode

end Sys2Proof.Proofs
end

section
/-! PROOFS. Encoding after decoding (R301, R305, R310-R330, R340, R345): the place of each handler in the tables, what each handler
that answers has read, and the word put together again from those fields. -/

namespace Sys2Proof

/-! ### Where a handler is installed -/

/-- inst[6:2] of the handler's slots (R314). -/
def Handler.op5 : Handler → BitVec 5
  | .lb | .lh | .lw | .ld | .lbu | .lhu | .lwu => 0b00000#5
  | .fence | .fenceI => 0b00011#5
  | .addi | .slti | .sltiu | .xori | .ori | .andi | .slli | .srli | .srai => 0b00100#5
  | .auipc => 0b00101#5
  | .addiw | .slliw | .srliw | .sraiw => 0b00110#5
  | .sb | .sh | .sw | .sd => 0b01000#5
  | .amoW | .amoD => 0b01011#5
  | .addMul | .sub | .sllMulh | .sltMulhsu | .sltuMulhu | .xorDiv | .srlDivu | .sra | .orRem | .andRemu => 0b01100#5
  | .lui => 0b01101#5
  | .addwMulw | .subw | .sllw | .divw | .srlwDivuw | .sraw | .remw | .remuw => 0b01110#5
  | .beq | .bne | .blt | .bge | .bltu | .bgeu => 0b11000#5
  | .jalr => 0b11001#5
  | .jal => 0b11011#5
  | .systemPriv | .csrrw | .csrrs | .csrrc | .csrrwi | .csrrsi | .csrrci => 0b11100#5

/-- inst[14:12] of the handler's slots, where they have one value (R315-R318). -/
def Handler.funct3 : Handler → Option (BitVec 3)
  | .lb | .fence | .addi | .addiw | .sb | .addMul | .sub | .addwMulw | .subw | .beq | .jalr | .systemPriv => some 0b000#3
  | .lh | .fenceI | .slli | .slliw | .sh | .sllMulh | .sllw | .bne | .csrrw => some 0b001#3
  | .lw | .slti | .sw | .amoW | .sltMulhsu | .csrrs => some 0b010#3
  | .ld | .sltiu | .sd | .amoD | .sltuMulhu | .csrrc => some 0b011#3
  | .lbu | .xori | .xorDiv | .divw | .blt => some 0b100#3
  | .lhu | .srli | .srai | .srliw | .sraiw | .srlDivu | .sra | .srlwDivuw | .sraw | .bge | .csrrwi => some 0b101#3
  | .lwu | .ori | .orRem | .remw | .bltu | .csrrsi => some 0b110#3
  | .andi | .andRemu | .remuw | .bgeu | .csrrci => some 0b111#3
  | .auipc | .lui | .jal => none

/-- The handler is installed with XLEN = 64 only (R315-R317). -/
def Handler.rv64Only : Handler → Bool
  | .ld | .lwu | .addiw | .slliw | .srliw | .sraiw | .sd | .amoD
  | .addwMulw | .subw | .sllw | .divw | .srlwDivuw | .sraw | .remw | .remuw => true
  | _ => false

/-- The table, slot by slot. -/
theorem slotOf_some {x : Xlen} {op5 : BitVec 5} {f3 : BitVec 3} {b30 : Bool} {k : Handler} (h : slotOf x op5 f3 b30 = some k) :
    op5 = k.op5 ∧ (∀ f ∈ k.funct3, f3 = f) ∧ (k.rv64Only = true → x = .rv64) := by
  have key : ∀ op5 f3 b30, ∀ k ∈ slotOf x op5 f3 b30,
      op5 = k.op5 ∧ (∀ f ∈ k.funct3, f3 = f) ∧ (k.rv64Only = true → x = .rv64) := by
    cases x <;> decide +kernel
  exact key op5 f3 b30 k h

/-- The compressed id of the handler's slot (R323). -/
def CHandler.id : CHandler → BitVec 5
  | .addi4spn => 0
  | .lw => 8
  | .ld => 12
  | .sw => 24
  | .sd => 28
  | .addiNop => 1
  | .jal | .addiw => 5
  | .li => 9
  | .luiAddi16sp => 13
  | .miscAlu => 17
  | .j => 21
  | .beqz => 25
  | .bnez => 29
  | .slli => 2
  | .lwsp => 10
  | .ldsp => 14
  | .cr => 18
  | .swsp => 26
  | .sdsp => 30

/-- The one XLEN with which the handler is installed, where it is not installed with both (R323). -/
def CHandler.xlen : CHandler → Option Xlen
  | .jal => some .rv32
  | .ld | .sd | .addiw | .ldsp | .sdsp => some .rv64
  | _ => none

/-- The compressed table, slot by slot. -/
theorem slot16_some {x : Xlen} {id : BitVec 5} {c : CHandler} (h : slot16 x id = some c) : id = c.id ∧ ∀ y ∈ c.xlen, x = y := by
  have key : ∀ id, ∀ c ∈ slot16 x id, id = c.id ∧ ∀ y ∈ c.xlen, x = y := by cases x <;> decide +kernel
  exact key id c h

/-! ### What a handler that answers has read -/

section
variable {x : Xlen} {w : BitVec 32} {i : Instr}

theorem checked_ok {ok : Bool} {j : Instr} (h : checked ok j = .ok i) : ok = true ∧ i = j := by
  cases ok with
  | false => cases h
  | true => exact ⟨rfl, by cases h; rfl⟩

theorem byFunct7_ok {base mExt : RegIdx → RegIdx → RegIdx → Instr} (h : byFunct7 w base mExt = .ok i) :
    (fFunct7 w = 0b0000000#7 ∧ i = base (fRd w) (fRs1 w) (fRs2 w)) ∨
    (fFunct7 w = 0b0000001#7 ∧ i = mExt (fRd w) (fRs1 w) (fRs2 w)) := by
  unfold byFunct7 at h
  split at h
  case h_1 h7 => exact .inl ⟨h7, by cases h; rfl⟩
  case h_2 h7 => exact .inr ⟨h7, by cases h; rfl⟩
  case h_3 => cases h

theorem withFunct7_ok {f7 : BitVec 7} {mk : RegIdx → RegIdx → RegIdx → Instr} (h : withFunct7 w f7 mk = .ok i) :
    fFunct7 w = f7 ∧ i = mk (fRd w) (fRs1 w) (fRs2 w) := by
  obtain ⟨h7, rfl⟩ := checked_ok h
  exact ⟨eq_of_beq h7, rfl⟩

theorem shiftImm_ok {f6 : BitVec 6} {mk : RegIdx → RegIdx → BitVec 6 → Instr} (h : shiftImm x w f6 mk = .ok i) :
    fFunct6 w = f6 ∧ shamtOk x (fShamt w) = true ∧ i = mk (fRd w) (fRs1 w) (fShamt w) := by
  obtain ⟨hk, rfl⟩ := checked_ok h
  rw [Bool.and_eq_true, beq_iff_eq] at hk
  exact ⟨hk.1, hk.2, rfl⟩

/-- funct5 is one of the eleven, LR's with rs2 = 0 (R606). -/
def AmoFunct5 (w : BitVec 32) : Prop :=
  w.extractLsb' 27 5 ∈ [0b00000#5, 0b00001#5, 0b00010#5, 0b00011#5, 0b00100#5, 0b01000#5, 0b01100#5, 0b10000#5, 0b10100#5,
    0b11000#5, 0b11100#5] ∧ (w.extractLsb' 27 5 = 0b00010#5 → fRs2 w = 0)

/-- The atomic unit's two handlers (R317, R606). -/
theorem amo_ok {k : Handler} (h5 : k.op5 = 0b01011#5) (hx : k.rv64Only = true → x = .rv64) (h : secondLevel x k w = .ok i) :
    AmoFunct5 w ∧ i.wf x = true ∧ ∀ f3 ∈ k.funct3,
      encode i = .full (amoType (w.extractLsb' 27 5) (fAq w) (fRl w) (fRs2 w) (fRs1 w) f3 (fRd w)) := by
  cases k
  case amoW | amoD =>
    simp only [secondLevel, amoWords, amoDoubles] at h
    unfold AmoFunct5
    split at h <;> rename_i hf5
    case h_1 =>
      obtain ⟨h2, rfl⟩ := checked_ok h
      rw [hf5, eq_of_beq h2]
      exact ⟨by decide, (Instr.wf_iff _ _).2 ⟨hx, rfl⟩, by rintro _ ⟨⟩; rfl⟩
    case h_12 => cases h
    all_goals
      cases h
      rw [hf5]
      exact ⟨⟨by decide, nofun⟩, (Instr.wf_iff _ _).2 ⟨hx, rfl⟩, by rintro _ ⟨⟩; rfl⟩
  all_goals cases h5

/-- SFENCE.VMA, or one of the five whole words (R318, R706). -/
theorem systemPriv_ok (h : systemPriv w = .ok i) : fRd w = 0 ∧
    ((fFunct7 w = 0b0001001#7 ∧ i = .sfenceVma (fRs1 w) (fRs2 w)) ∨
      (i ∈ [.ecall, .ebreak, .sret, .mret, .wfi] ∧ encode i = .full (iType (fImmI w) (fRs1 w) 0b000#3 (fRd w) 0b11100#5))) := by
  unfold systemPriv at h
  split at h
  · cases h
  rename_i hd
  have hd := not_not.1 hd
  refine ⟨hd, ?_⟩
  split at h
  · rename_i h7
    exact .inl ⟨h7, by cases h; rfl⟩
  split at h
  · cases h
  rename_i h1
  rw [hd, not_not.1 h1]
  split at h <;> rename_i himm
  case h_6 => cases h
  all_goals
    cases h
    rw [himm]
    exact .inr (by decide)

end

/-! ### Words put together again -/

section
variable {w : BitVec 32} {f3 : BitVec 3} {op5 : BitVec 5} (hlow : w.extractLsb' 0 2 = 0b11#2)
include hlow

theorem rType_of_fields {f7 : BitVec 7} (h7 : fFunct7 w = f7) (h3 : w.extractLsb' 12 3 = f3) (h5 : w.extractLsb' 2 5 = op5) :
    rType f7 (fRs2 w) (fRs1 w) f3 (fRd w) op5 = w := by
  subst h7 h3 h5
  exact rType_fields w hlow

theorem iType_of_fields (h3 : w.extractLsb' 12 3 = f3) (h5 : w.extractLsb' 2 5 = op5) :
    iType (fImmI w) (fRs1 w) f3 (fRd w) op5 = w := by
  subst h3 h5
  exact iType_fields w hlow

theorem iType_of_shift {f6 : BitVec 6} (h6 : fFunct6 w = f6) (h3 : w.extractLsb' 12 3 = f3) (h5 : w.extractLsb' 2 5 = op5) :
    iType (f6 ++ fShamt w) (fRs1 w) f3 (fRd w) op5 = w := by
  have himm : fFunct6 w ++ fShamt w = fImmI w := BitVec.extractLsb'_append_extractLsb'_eq_extractLsb' rfl
  rw [← h6, himm, iType_of_fields hlow h3 h5]

theorem iType_of_fence (h3 : w.extractLsb' 12 3 = f3) (h5 : w.extractLsb' 2 5 = op5) :
    iType (w.extractLsb' 28 4 ++ w.extractLsb' 24 4 ++ w.extractLsb' 20 4) (fRs1 w) f3 (fRd w) op5 = w := by
  have himm : w.extractLsb' 28 4 ++ w.extractLsb' 24 4 ++ w.extractLsb' 20 4 = fImmI w := by
    have hhi : w.extractLsb' 28 4 ++ w.extractLsb' 24 4 = w.extractLsb' 24 8 :=
      BitVec.extractLsb'_append_extractLsb'_eq_extractLsb' rfl
    rw [hhi]
    exact BitVec.extractLsb'_append_extractLsb'_eq_extractLsb' rfl
  rw [himm, iType_of_fields hlow h3 h5]

theorem sType_of_fields (h3 : w.extractLsb' 12 3 = f3) (h5 : w.extractLsb' 2 5 = op5) :
    sType (fImmS w) (fRs2 w) (fRs1 w) f3 op5 = w := by
  subst h3 h5
  exact sType_fields w hlow

theorem bType_of_fields (h3 : w.extractLsb' 12 3 = f3) (h5 : w.extractLsb' 2 5 = 0b11000#5) :
    bType (fImmB w) (fRs2 w) (fRs1 w) f3 = w := by
  subst h3
  exact bType_fields w hlow h5

theorem uType_of_fields (h5 : w.extractLsb' 2 5 = op5) : uType (fImmU w) (fRd w) op5 = w := by
  subst h5
  exact uType_fields w hlow

theorem amoType_of_fields (h3 : w.extractLsb' 12 3 = f3) (h5 : w.extractLsb' 2 5 = 0b01011#5) :
    amoType (w.extractLsb' 27 5) (fAq w) (fRl w) (fRs2 w) (fRs1 w) f3 (fRd w) = w := by
  subst h3
  exact amoType_fields w hlow h5

/-- The handler in a slot of the word answers with the well-formed instruction whose encoding the word is. -/
theorem encode_secondLevel {x : Xlen} {k : Handler} {i : Instr} (h5 : w.extractLsb' 2 5 = k.op5)
    (h3 : ∀ f ∈ k.funct3, w.extractLsb' 12 3 = f) (hx : k.rv64Only = true → x = .rv64) (h : secondLevel x k w = .ok i) :
    i.wf x = true ∧ encode i = .full w := by
  have hwf : ∀ {j : Instr}, j.rv64Only = k.rv64Only → j.rowOk x = true → j.wf x = true := fun h64 hrow =>
    (Instr.wf_iff _ _).2 ⟨h64 ▸ hx, hrow⟩
  cases k
  case lb | lh | lw | ld | lbu | lhu | lwu | fenceI | addi | slti | sltiu | xori | ori | andi | addiw | jalr | csrrw | csrrs | csrrc
      | csrrwi | csrrsi | csrrci =>
    cases h
    exact ⟨hwf rfl rfl, congrArg _ (iType_of_fields hlow (h3 _ rfl) h5)⟩
  case fence =>
    cases h
    exact ⟨rfl, congrArg _ (iType_of_fence hlow (h3 _ rfl) h5)⟩
  case slli | srli | srai =>
    obtain ⟨h6, hsh, rfl⟩ := shiftImm_ok h
    exact ⟨hsh, congrArg _ (iType_of_shift hlow h6 (h3 _ rfl) h5)⟩
  case sub | sra | slliw | srliw | sraiw | subw | sllw | divw | sraw | remw | remuw =>
    obtain ⟨h7, rfl⟩ := withFunct7_ok h
    exact ⟨hwf rfl rfl, congrArg _ (rType_of_fields hlow h7 (h3 _ rfl) h5)⟩
  case addMul | sllMulh | sltMulhsu | sltuMulhu | xorDiv | srlDivu | orRem | andRemu | addwMulw | srlwDivuw =>
    obtain ⟨h7, rfl⟩ | ⟨h7, rfl⟩ := byFunct7_ok h <;>
      exact ⟨hwf rfl rfl, congrArg _ (rType_of_fields hlow h7 (h3 _ rfl) h5)⟩
  case sb | sh | sw | sd =>
    cases h
    exact ⟨hwf rfl rfl, congrArg _ (sType_of_fields hlow (h3 _ rfl) h5)⟩
  case beq | bne | blt | bge | bltu | bgeu =>
    cases h
    exact ⟨rfl, congrArg _ (bType_of_fields hlow (h3 _ rfl) h5)⟩
  case lui | auipc =>
    cases h
    exact ⟨rfl, congrArg _ (uType_of_fields hlow h5)⟩
  case jal =>
    cases h
    exact ⟨rfl, congrArg _ (jType_fields w hlow h5)⟩
  case amoW | amoD =>
    obtain ⟨-, hw, he⟩ := amo_ok rfl hx h
    exact ⟨hw, (he _ rfl).trans (congrArg _ (amoType_of_fields hlow (h3 _ rfl) h5))⟩
  case systemPriv =>
    obtain ⟨hd, ⟨h7, rfl⟩ | ⟨hi, he⟩⟩ := systemPriv_ok h
    · have hw := rType_of_fields hlow h7 (h3 _ rfl) h5
      rw [hd] at hw
      exact ⟨rfl, congrArg _ hw⟩
    · refine ⟨?_, he.trans (congrArg _ (iType_of_fields hlow (h3 _ rfl) h5))⟩
      simp only [List.mem_cons, List.not_mem_nil, or_false] at hi
      obtain rfl | rfl | rfl | rfl | rfl := hi <;> rfl

end

/-! ### Compressed words put together again -/

section
variable {h : BitVec 16} {f3 : BitVec 3} {op : BitVec 2}

/-- funct3 and the quadrant, from the compressed id (R320). -/
theorem cid_fields {id : BitVec 5} (hid : cid h = id) :
    h.extractLsb' 13 3 = id.extractLsb' 2 3 ∧ h.extractLsb' 0 2 = id.extractLsb' 0 2 :=
  ⟨hid ▸ BitVec.extractLsb'_append_eq_left.symm, hid ▸ BitVec.extractLsb'_append_eq_right.symm⟩

theorem ciType_of_fields (h3 : h.extractLsb' 13 3 = f3) (h0 : h.extractLsb' 0 2 = op) : ciType f3 (cImm6 h) (cRd h) op = h := by
  subst h3 h0
  exact ciType_fields h

theorem clwType_of_fields (h3 : h.extractLsb' 13 3 = f3) (h0 : h.extractLsb' 0 2 = 0b00#2) :
    clwType f3 (cImmW h) (cHi h) (cLo h) = h := by
  subst h3
  exact (clwType_fields h).trans (ciType_of_fields rfl h0)

theorem cldType_of_fields (h3 : h.extractLsb' 13 3 = f3) (h0 : h.extractLsb' 0 2 = 0b00#2) :
    cldType f3 (cImmD h) (cHi h) (cLo h) = h := by
  subst h3
  exact (cldType_fields h).trans (ciType_of_fields rfl h0)

theorem cjType_of_fields (h3 : h.extractLsb' 13 3 = f3) (h0 : h.extractLsb' 0 2 = 0b01#2) : cjType f3 (cImmJ h) = h := by
  subst h3
  exact (cjType_fields h).trans (ciType_of_fields rfl h0)

theorem cbType_of_fields (h3 : h.extractLsb' 13 3 = f3) (h0 : h.extractLsb' 0 2 = 0b01#2) :
    cbType f3 (cImmB h) (cHi h) = h := by
  subst h3
  exact (cbType_fields h).trans (ciType_of_fields rfl h0)

theorem cbAluType_of_fields {f2 : BitVec 2} (h3 : h.extractLsb' 13 3 = 0b100#3) (h0 : h.extractLsb' 0 2 = 0b01#2)
    (h2 : h.extractLsb' 10 2 = f2) : cbAluType (cImm6 h) f2 (cHi h) = h := by
  have hci : cbAluType (cImm6 h) f2 (cHi h) = ciType 0b100#3 (cImm6 h) (f2 ++ cHi h) 0b01#2 := by
    apply BitVec.eq_of_getLsbD_eq; intro i hi
    simp only [cbAluType, ciType, BitVec.getLsbD_append]
    interval_cases i <;> simp
  have hrd : f2 ++ cHi h = cRd h := h2 ▸ BitVec.extractLsb'_append_extractLsb'_eq_extractLsb' rfl
  rw [hci, hrd, ciType_of_fields h3 h0]

theorem extract_bit12 {b : Bool} (h12 : h.getLsbD 12 = b) : h.extractLsb' 12 1 = BitVec.ofBool b := by
  apply BitVec.eq_of_getLsbD_eq; intro i hi
  interval_cases i
  simpa using h12

theorem caType_of_fields {b : Bool} {f2 : BitVec 2} (h3 : h.extractLsb' 13 3 = 0b100#3) (h0 : h.extractLsb' 0 2 = 0b01#2)
    (h12 : h.getLsbD 12 = b) (h10 : h.extractLsb' 10 2 = 0b11#2) (h5 : h.extractLsb' 5 2 = f2) :
    caType (0b100#3 ++ BitVec.ofBool b ++ 0b11#2) (cHi h) f2 (cLo h) = h := by
  have h13 : h.extractLsb' 13 3 ++ h.extractLsb' 12 1 = h.extractLsb' 12 4 :=
    BitVec.extractLsb'_append_extractLsb'_eq_extractLsb' rfl
  have h6 : h.extractLsb' 12 4 ++ h.extractLsb' 10 2 = h.extractLsb' 10 6 :=
    BitVec.extractLsb'_append_extractLsb'_eq_extractLsb' rfl
  rw [← extract_bit12 h12, ← h3, ← h10, h13, h6, ← h5]
  exact (caType_fields h).trans (ciType_of_fields rfl h0)

theorem crType_of_fields {b : Bool} (h3 : h.extractLsb' 13 3 = 0b100#3) (h0 : h.extractLsb' 0 2 = 0b10#2)
    (h12 : h.getLsbD 12 = b) : crType (0b100#3 ++ BitVec.ofBool b) (cRd h) (cRs2 h) = h := by
  have h13 : h.extractLsb' 13 3 ++ h.extractLsb' 12 1 = h.extractLsb' 12 4 :=
    BitVec.extractLsb'_append_extractLsb'_eq_extractLsb' rfl
  rw [← extract_bit12 h12, ← h3, h13]
  exact (crType_fields h).trans (ciType_of_fields rfl h0)

end

/-! ### Compressed handlers -/

theorem eq_three_of_ne {v : BitVec 2} : (v = 0b00#2 → False) → (v = 0b01#2 → False) → (v = 0b10#2 → False) → v = 0b11#2 := by
  revert v
  decide

theorem unreserved_ok {ok : Bool} {i j : Instr} (h : unreserved ok j = .ok i) : ok = true ∧ i = j := by
  cases ok with
  | false => cases h
  | true => exact ⟨rfl, by cases h; rfl⟩

section
variable {x : Xlen} {h : BitVec 16} {i : Instr}

theorem encode_decodeLuiAddi16sp (h3 : h.extractLsb' 13 3 = 0b011#3) (h0 : h.extractLsb' 0 2 = 0b01#2)
    (hd : decodeLuiAddi16sp h = .ok i) : i.wf x = true ∧ encode i = .half h := by
  have hci := ciType_of_fields h3 h0
  unfold decodeLuiAddi16sp at hd
  split at hd
  case isTrue hrd =>
    obtain ⟨hz, rfl⟩ := unreserved_ok hd
    rw [hrd] at hci
    exact ⟨hz, congrArg _ ((ci16spType_fields h).trans hci)⟩
  case isFalse hrd =>
    obtain ⟨hz, rfl⟩ := unreserved_ok hd
    exact ⟨(Instr.wf_iff _ _).2 ⟨nofun, Bool.and_eq_true_iff.2 ⟨bne_iff_ne.2 hrd, hz⟩⟩, congrArg _ hci⟩

theorem encode_decodeMiscAlu (h3 : h.extractLsb' 13 3 = 0b100#3) (h0 : h.extractLsb' 0 2 = 0b01#2)
    (hd : decodeMiscAlu x h = .ok i) : i.wf x = true ∧ encode i = .half h := by
  unfold decodeMiscAlu at hd
  split at hd
  case h_1 | h_2 =>
    obtain ⟨hsh, rfl⟩ := unreserved_ok hd
    exact ⟨hsh, congrArg _ (cbAluType_of_fields h3 h0 ‹_›)⟩
  case h_3 =>
    cases hd
    exact ⟨rfl, congrArg _ (cbAluType_of_fields h3 h0 ‹_›)⟩
  case h_4 h00 h01 h10 =>
    have h11 := eq_three_of_ne h00 h01 h10
    split at hd
    case h_1 h12 h5 | h_2 h12 h5 | h_3 h12 h5 =>
      cases hd
      exact ⟨rfl, congrArg _ (caType_of_fields h3 h0 h12 h11 h5)⟩
    case h_4 h12 h50 h51 h52 =>
      cases hd
      exact ⟨rfl, congrArg _ (caType_of_fields h3 h0 h12 h11 (eq_three_of_ne h50 h51 h52))⟩
    case h_5 h12 h5 | h_6 h12 h5 =>
      obtain ⟨hx, rfl⟩ := unreserved_ok hd
      obtain rfl := eq_of_beq hx
      exact ⟨rfl, congrArg _ (caType_of_fields h3 h0 h12 h11 h5)⟩
    case h_7 => cases hd

theorem encode_decodeCr (h3 : h.extractLsb' 13 3 = 0b100#3) (h0 : h.extractLsb' 0 2 = 0b10#2)
    (hd : decodeCr h = .ok i) : i.wf x = true ∧ encode i = .half h := by
  unfold decodeCr at hd
  have hcr := crType_of_fields h3 h0 rfl
  cases h12 : h.getLsbD 12
  all_goals
    simp only [h12] at hd
    rw [h12] at hcr
  case false =>
    split at hd
    case isTrue h2 =>
      obtain ⟨hz, rfl⟩ := unreserved_ok hd
      rw [h2] at hcr
      exact ⟨hz, congrArg _ hcr⟩
    case isFalse h2 =>
      cases hd
      exact ⟨bne_iff_ne.2 h2, congrArg _ hcr⟩
  case true =>
    split at hd
    case isTrue h2 =>
      rw [h2] at hcr
      split at hd
      case isTrue hrd =>
        cases hd
        rw [hrd] at hcr
        exact ⟨rfl, congrArg _ hcr⟩
      case isFalse hrd =>
        cases hd
        exact ⟨bne_iff_ne.2 hrd, congrArg _ hcr⟩
    case isFalse h2 =>
      cases hd
      exact ⟨bne_iff_ne.2 h2, congrArg _ hcr⟩

theorem encode_cSecondLevel {c : CHandler} (hid : cid h = c.id) (hx : ∀ y ∈ c.xlen, x = y) (hd : cSecondLevel x c h = .ok i) :
    i.wf x = true ∧ encode i = .half h := by
  obtain ⟨h3, h0⟩ := cid_fields hid
  cases c
  case luiAddi16sp => exact encode_decodeLuiAddi16sp h3 h0 hd
  case miscAlu => exact encode_decodeMiscAlu h3 h0 hd
  case cr => exact encode_decodeCr h3 h0 hd
  case lw | sw => 
    cases hd
    exact ⟨rfl, congrArg _ (clwType_of_fields h3 h0)⟩
  case ld | sd =>
    obtain rfl := hx _ rfl
    cases hd
    exact ⟨rfl, congrArg _ (cldType_of_fields h3 h0)⟩
  case addi4spn =>
    obtain ⟨hz, rfl⟩ := unreserved_ok hd
    exact ⟨hz, congrArg _ ((ciwType_fields h).trans (ciType_of_fields h3 h0))⟩
  case addiNop =>
    have hci := ciType_of_fields h3 h0
    rw [cSecondLevel] at hd
    split at hd
    case isTrue hrd =>
      cases hd
      rw [hrd] at hci
      exact ⟨rfl, congrArg _ hci⟩
    case isFalse hrd =>
      cases hd
      exact ⟨bne_iff_ne.2 hrd, congrArg _ hci⟩
  case jal =>
    obtain rfl := hx _ rfl
    cases hd
    exact ⟨rfl, congrArg _ (cjType_of_fields h3 h0)⟩
  case j =>
    cases hd
    exact ⟨rfl, congrArg _ (cjType_of_fields h3 h0)⟩
  case addiw =>
    obtain rfl := hx _ rfl
    obtain ⟨hz, rfl⟩ := unreserved_ok hd
    exact ⟨hz, congrArg _ (ciType_of_fields h3 h0)⟩
  case li =>
    cases hd
    exact ⟨rfl, congrArg _ (ciType_of_fields h3 h0)⟩
  case slli =>
    obtain ⟨hz, rfl⟩ := unreserved_ok hd
    exact ⟨hz, congrArg _ (ciType_of_fields h3 h0)⟩
  case beqz | bnez =>
    cases hd
    exact ⟨rfl, congrArg _ (cbType_of_fields h3 h0)⟩
  case lwsp =>
    obtain ⟨hz, rfl⟩ := unreserved_ok hd
    exact ⟨hz, congrArg _ ((clwspType_fields h).trans (ciType_of_fields h3 h0))⟩
  case ldsp =>
    obtain rfl := hx _ rfl
    obtain ⟨hz, rfl⟩ := unreserved_ok hd
    exact ⟨hz, congrArg _ ((cldspType_fields h).trans (ciType_of_fields h3 h0))⟩
  case swsp =>
    cases hd
    exact ⟨rfl, congrArg _ ((cswspType_fields h).trans (ciType_of_fields h3 h0))⟩
  case sdsp =>
    obtain rfl := hx _ rfl
    cases hd
    exact ⟨rfl, congrArg _ ((csdspType_fields h).trans (ciType_of_fields h3 h0))⟩

end

/-! ### The decoder -/

section
variable {x : Xlen} {i : Instr}

/-- A 32-bit word that decodes has a handler in its slot, and the handler answers. -/
theorem decode_full_ok {w : BitVec 32} (h : decode x (.full w) = .ok i) : ∃ k : Handler, w.extractLsb' 2 5 = k.op5 ∧
    (∀ f ∈ k.funct3, w.extractLsb' 12 3 = f) ∧ (k.rv64Only = true → x = .rv64) ∧ secondLevel x k w = .ok i := by
  rw [decode, decode32] at h
  split at h
  case h_1 => cases h
  case h_2 k hs =>
    obtain ⟨h5, h3, hx⟩ := slotOf_some (slot32_fid x w ▸ hs)
    exact ⟨k, h5, h3, hx, h⟩

/-- A 16-bit word that decodes has a handler in its slot, and the handler answers. -/
theorem decode_half_ok {h : BitVec 16} (hd : decode x (.half h) = .ok i) :
    ∃ c : CHandler, cid h = c.id ∧ (∀ y ∈ c.xlen, x = y) ∧ cSecondLevel x c h = .ok i := by
  rw [decode, decode16] at hd
  split at hd
  case h_1 => cases hd
  case h_2 c hs =>
    obtain ⟨hid, hx⟩ := slot16_some hs
    exact ⟨c, hid, hx, hd⟩

theorem encode_decode {r : Raw} (hr : ∀ w, r = .full w → w.extractLsb' 0 2 = 0b11#2) (h : decode x r = .ok i) :
    i.wf x = true ∧ encode i = r := by
  cases r with
  | full w =>
    obtain ⟨k, h5, h3, hx, hk⟩ := decode_full_ok h
    exact encode_secondLevel (hr w rfl) h5 h3 hx hk
  | half h' =>
    obtain ⟨c, hid, hx, hc⟩ := decode_half_ok h
    exact encode_cSecondLevel hid hx hc

end

end Sys2Proof

namespace Sys2Proof.Proofs

/-- Settles O2: a handler that answers has read every bit of the word, and the fields put together again are the word. -/
theorem encodeOfDecode : Obligations.EncodeOfDecode := fun _ _ _ => encode_decode

end Sys2Proof.Proofs
end

section
/-! PROOFS. Words that are no instruction (R312, R330, R340, R345, R606, R706, R785): the handlers that answer pass every check that
the statements name, so a word that fails one does not decode. -/

namespace Sys2Proof

open Sys2Proof.Spec

/-! ### Slots that are not installed -/

section
variable {x : Xlen} {i : Instr}

theorem decode_full_none {w : BitVec 32} (hs : slotOf x (w.extractLsb' 2 5) (w.extractLsb' 12 3) w[30] = none) :
    decode x (.full w) ≠ .ok i := by
  rw [decode, decode32, slot32_fid, hs]
  nofun

theorem decode_half_none {h : BitVec 16} {id : BitVec 5} (hid : cid h = id) (hs : slot16 x id = none) :
    decode x (.half h) ≠ .ok i := by
  rw [decode, decode16, hid, hs]
  nofun

end

/-! ### Fields as numbers -/

theorem field_toNat {n : Nat} (v : BitVec n) (lo k : Nat) : v.toNat / 2 ^ lo % 2 ^ k = (v.extractLsb' lo k).toNat := by
  rw [BitVec.extractLsb'_toNat, Nat.shiftRight_eq_div_pow]

theorem topField_toNat {lo k : Nat} (v : BitVec (lo + k)) : v.toNat / 2 ^ lo = (v.extractLsb' lo k).toNat := by
  rw [← field_toNat, Nat.mod_eq_of_lt (Nat.div_lt_of_lt_mul (Nat.pow_add 2 lo k ▸ v.isLt))]

theorem bit_toNat {n : Nat} (v : BitVec n) (j : Nat) : v.toNat / 2 ^ j % 2 = (v.getLsbD j).toNat := by
  rw [BitVec.getLsbD, Nat.toNat_testBit]

/-- A field of a field. -/
theorem extract_extract {n lo len j k : Nat} (v : BitVec n) (hk : j + k ≤ len) :
    (v.extractLsb' lo len).extractLsb' j k = v.extractLsb' (lo + j) k := by
  ext t ht
  simp only [BitVec.getElem_extractLsb', BitVec.getLsbD_extractLsb', show j + t < len by omega, decide_true, Bool.true_and,
    Nat.add_assoc]

theorem extract_of_zero {n lo len j k : Nat} {v : BitVec n} (hz : v.extractLsb' lo len = 0) (hk : j + k ≤ len) :
    v.extractLsb' (lo + j) k = 0 := by
  rw [← extract_extract v hk, hz]
  exact BitVec.extractLsb'_zero

theorem low_eq_of_mod {w : BitVec 32} (h : w.toNat % 4 = 3) : w.extractLsb' 0 2 = 0b11#2 :=
  BitVec.eq_of_toNat_eq ((BitVec.extractLsb'_toNat 0 2 w).trans h)

/-! ### Second-level checks -/

section
variable {x : Xlen} {w : BitVec 32} {k : Handler} {i : Instr}

/-- inst[25] is shamt[5]. -/
theorem funct7_mod_two (w : BitVec 32) : (fFunct7 w).toNat % 2 = ((fShamt w).getLsbD 5).toNat := by
  rw [← Nat.div_one (fFunct7 w).toNat, ← Nat.pow_zero 2, bit_toNat]
  simp [fFunct7, fShamt]

theorem AmoFunct5.toNat {w : BitVec 32} (h : AmoFunct5 w) :
    ¬((w.extractLsb' 27 5).toNat ∉ [0, 1, 2, 3, 4, 8, 12, 16, 20, 24, 28] ∨
      ((w.extractLsb' 27 5).toNat = 2 ∧ (w.extractLsb' 20 5).toNat ≠ 0)) := by
  obtain ⟨hmem, hlr⟩ := h
  rintro (hn | ⟨h2, hn⟩)
  · exact hn (List.mem_map_of_mem (f := BitVec.toNat) hmem)
  · exact hn (congrArg BitVec.toNat (hlr (BitVec.eq_of_toNat_eq h2)))

/-- `w` is one of SYSTEM-PRIV's five whole words where `w` is the encoding of one of its instructions (R706). -/
theorem systemPriv_word {w : BitVec 32} {i : Instr} (hi : i ∈ [Instr.ecall, .ebreak, .sret, .mret, .wfi])
    (he : encode i = .full w) : w.toNat ∈ [0x73, 0x100073, 0x10200073, 0x30200073, 0x10500073] := by
  simp only [List.mem_cons, List.not_mem_nil, or_false] at hi
  obtain rfl | rfl | rfl | rfl | rfl := hi <;>
  · cases he
    decide

section
variable (h3 : ∀ f ∈ k.funct3, w.extractLsb' 12 3 = f) (hk : secondLevel x k w = .ok i)
include h3 hk

/-- OP (R316). -/
theorem op_checked (h5 : k.op5 = 0b01100#5) : ¬((fFunct7 w).toNat ∉ [0, 1, 0x20] ∨
    ((fFunct7 w).toNat = 0x20 ∧ (w.extractLsb' 12 3).toNat ∉ [0, 5])) := by
  cases k
  case addMul | sllMulh | sltMulhsu | sltuMulhu | xorDiv | srlDivu | orRem | andRemu =>
    obtain ⟨h7, -⟩ | ⟨h7, -⟩ := byFunct7_ok hk <;>
    · rw [h3 _ rfl, h7]
      decide
  case sub | sra =>
    obtain ⟨h7, -⟩ := withFunct7_ok hk
    rw [h3 _ rfl, h7]
    decide
  all_goals cases h5

/-- OP-32 (R316). -/
theorem op32_checked (h5 : k.op5 = 0b01110#5) : ¬((fFunct7 w).toNat ∉ [0, 1, 0x20] ∨
    ((fFunct7 w).toNat = 0 ∧ (w.extractLsb' 12 3).toNat ∉ [0, 1, 5]) ∨
    ((fFunct7 w).toNat = 1 ∧ (w.extractLsb' 12 3).toNat ∈ [1, 2, 3]) ∨
    ((fFunct7 w).toNat = 0x20 ∧ (w.extractLsb' 12 3).toNat ∉ [0, 5])) := by
  cases k
  case addwMulw | srlwDivuw =>
    obtain ⟨h7, -⟩ | ⟨h7, -⟩ := byFunct7_ok hk <;>
    · rw [h3 _ rfl, h7]
      decide
  case subw | sllw | divw | sraw | remw | remuw =>
    obtain ⟨h7, -⟩ := withFunct7_ok hk
    rw [h3 _ rfl, h7]
    decide
  all_goals cases h5

/-- OP-IMM: funct6 of the shift-immediates, and shamt[5] with XLEN = 32 (R315). -/
theorem opImm_checked (h5 : k.op5 = 0b00100#5) : ¬(((w.extractLsb' 12 3).toNat = 1 ∧ (fFunct6 w).toNat ≠ 0) ∨
    ((w.extractLsb' 12 3).toNat = 5 ∧ (fFunct6 w).toNat ∉ [0, 0x10]) ∨
    (x = .rv32 ∧ (w.extractLsb' 12 3).toNat ∈ [1, 5] ∧ (fFunct7 w).toNat % 2 = 1)) := by
  cases k
  case addi | slti | sltiu | xori | ori | andi =>
    rw [h3 _ rfl]
    simp
  case slli | srli | srai =>
    obtain ⟨h6, hsh, -⟩ := shiftImm_ok hk
    have hodd : x = .rv32 → ¬(fFunct7 w).toNat % 2 = 1 := by
      rintro rfl
      rw [shamtOk, Bool.not_eq_true'] at hsh
      rw [funct7_mod_two, hsh]
      decide
    rw [h3 _ rfl, h6]
    simpa using hodd
  all_goals cases h5

/-- OP-IMM-32: funct7 of the W shifts (R315). -/
theorem opImm32_checked (h5 : k.op5 = 0b00110#5) : ¬(((w.extractLsb' 12 3).toNat = 1 ∧ (fFunct7 w).toNat ≠ 0) ∨
    ((w.extractLsb' 12 3).toNat = 5 ∧ (fFunct7 w).toNat ∉ [0, 0x20])) := by
  cases k
  case addiw =>
    rw [h3 _ rfl]
    simp
  case slliw | srliw | sraiw =>
    obtain ⟨h7, -⟩ := withFunct7_ok hk
    rw [h3 _ rfl, h7]
    decide
  all_goals cases h5

/-- SYSTEM-PRIV: SFENCE.VMA, or one of the five words (R318, R706). -/
theorem system_checked (h5 : w.extractLsb' 2 5 = k.op5) (hop : k.op5 = 0b11100#5) (hf3 : (w.extractLsb' 12 3).toNat = 0)
    (hlow : w.toNat % 4 = 3) : w.toNat ∈ [0x73, 0x100073, 0x10200073, 0x30200073, 0x10500073] ∨
      ((fFunct7 w).toNat = 9 ∧ (w.extractLsb' 7 5).toNat = 0) := by
  cases k
  case systemPriv =>
    obtain ⟨hd, ⟨h7, -⟩ | ⟨hi, -⟩⟩ := systemPriv_ok hk
    · exact .inr ⟨congrArg BitVec.toNat h7, congrArg BitVec.toNat hd⟩
    · exact .inl (systemPriv_word hi (encode_secondLevel (low_eq_of_mod hlow) h5 h3 nofun hk).2)
  case csrrw | csrrs | csrrc | csrrwi | csrrsi | csrrci =>
    rw [h3 _ rfl] at hf3
    exact absurd hf3 (by decide)
  all_goals cases hop

end

theorem not_failsSecondLevel (h5 : w.extractLsb' 2 5 = k.op5) (h3 : ∀ f ∈ k.funct3, w.extractLsb' 12 3 = f)
    (hx : k.rv64Only = true → x = .rv64) (hk : secondLevel x k w = .ok i) : ¬FailsSecondLevel x w := by
  have h7 : w.toNat / 2 ^ 25 = (fFunct7 w).toNat := topField_toNat (lo := 25) (k := 7) w
  have h6 : w.toNat / 2 ^ 26 = (fFunct6 w).toNat := topField_toNat (lo := 26) (k := 6) w
  have hf5 : w.toNat / 2 ^ 27 = (w.extractLsb' 27 5).toNat := topField_toNat (lo := 27) (k := 5) w
  have hop : ∀ {o : BitVec 5}, (w.extractLsb' 2 5).toNat = o.toNat → k.op5 = o := fun h => h5 ▸ BitVec.eq_of_toNat_eq h
  rw [FailsSecondLevel, h7, h6, hf5, field_toNat, field_toNat, field_toNat, field_toNat]
  rintro (⟨ho, hf⟩ | ⟨ho, hf⟩ | ⟨ho, hf⟩ | ⟨ho, hf⟩ | ⟨ho, hf⟩ | ⟨ho, hf3, hlow, hw, hf⟩)
  · exact op_checked h3 hk (hop ho) hf
  · exact op32_checked h3 hk (hop ho) hf
  · exact opImm_checked h3 hk (hop ho) hf
  · exact opImm32_checked h3 hk (hop ho) hf
  · exact (amo_ok (hop ho) hx hk).1.toNat hf
  · exact (system_checked h3 hk h5 (hop ho) hf3 hlow).elim hw hf

end

/-! ### Reserved compressed encodings -/

section
variable {h : BitVec 16}

/-- nzuimm is the bits 12:5 in another order (R322). -/
theorem cImm4spn_of_zero (hz : h.extractLsb' 5 8 = 0) : cImm4spn h = 0 := by
  rw [cImm4spn, extract_of_zero (j := 2) (k := 4) hz (by decide), extract_of_zero (j := 6) (k := 2) hz (by decide),
    extract_of_zero (j := 0) (k := 1) hz (by decide), extract_of_zero (j := 1) (k := 1) hz (by decide)]
  rfl

/-- nzimm of C.ADDI16SP is bit 12 and the bits 6:2 in another order (R322). -/
theorem cImm16sp_of_zero (h12 : h.extractLsb' 12 1 = 0) (h2 : cRs2 h = 0) : cImm16sp h = 0 := by
  rw [cImm16sp, h12, extract_of_zero (j := 1) (k := 2) h2 (by decide), extract_of_zero (j := 3) (k := 1) h2 (by decide),
    extract_of_zero (j := 0) (k := 1) h2 (by decide), extract_of_zero (j := 4) (k := 1) h2 (by decide)]
  rfl

theorem cImm6_of_zero (h12 : h.extractLsb' 12 1 = 0) (h2 : cRs2 h = 0) : cImm6 h = 0 := by
  rw [cImm6, h12, show h.extractLsb' 2 5 = 0 from h2]
  rfl

theorem not_shamtOk_rv32 (h12 : h.extractLsb' 12 1 = 1) : ¬shamtOk .rv32 (cImm6 h) = true := by
  rw [cImm6, h12]
  generalize h.extractLsb' 2 5 = v
  revert v
  decide

variable {x : Xlen} {i : Instr}

/-- The reserved encodings by their fields (R345, R785). -/
theorem reservedHalf_iff : ReservedHalf x h ↔
    (h.extractLsb' 0 2 = 0b00 ∧ h.extractLsb' 13 3 = 0 ∧ h.extractLsb' 5 8 = 0) ∨
    (h.extractLsb' 0 2 = 0b10 ∧ (h.extractLsb' 13 3 = 2 ∨ h.extractLsb' 13 3 = 3) ∧ cRd h = 0) ∨
    (h.extractLsb' 0 2 = 0b10 ∧ h.extractLsb' 13 3 = 4 ∧ h.extractLsb' 12 1 = 0 ∧ cRd h = 0 ∧ cRs2 h = 0) ∨
    (h.extractLsb' 0 2 = 0b01 ∧ h.extractLsb' 13 3 = 3 ∧ h.extractLsb' 12 1 = 0 ∧ cRs2 h = 0) ∨
    (x = .rv64 ∧ h.extractLsb' 0 2 = 0b01 ∧ h.extractLsb' 13 3 = 1 ∧ cRd h = 0) ∨
    (x = .rv32 ∧ h.extractLsb' 12 1 = 1 ∧ ((h.extractLsb' 0 2 = 0b01 ∧ h.extractLsb' 13 3 = 4 ∧ h.extractLsb' 11 1 = 0) ∨
      (h.extractLsb' 0 2 = 0b10 ∧ h.extractLsb' 13 3 = 0))) ∨
    (h.extractLsb' 0 2 = 0b01 ∧ h.extractLsb' 13 3 = 4 ∧ h.extractLsb' 10 2 = 3 ∧ h.extractLsb' 12 1 = 1 ∧
      (x = .rv32 ∨ h.extractLsb' 6 1 = 1)) := by
  have hf3 : h.toNat / 2 ^ 13 = (h.extractLsb' 13 3).toNat := topField_toNat (lo := 13) (k := 3) h
  have hquad : h.toNat % 2 ^ 2 = (h.extractLsb' 0 2).toNat := by rw [← field_toNat, Nat.pow_zero, Nat.div_one]
  have h12 : h.toNat / 2 ^ 12 % 2 = (h.extractLsb' 12 1).toNat := field_toNat h 12 1
  have h11 : h.toNat / 2 ^ 11 % 2 = (h.extractLsb' 11 1).toNat := field_toNat h 11 1
  have h10 : h.toNat / 2 ^ 10 % 4 = (h.extractLsb' 10 2).toNat := field_toNat h 10 2
  have h6 : h.toNat / 2 ^ 6 % 2 = (h.extractLsb' 6 1).toNat := field_toNat h 6 1
  rw [ReservedHalf, hf3, hquad, h12, h11, h10, h6, field_toNat, field_toNat, field_toNat]
  simp only [← BitVec.toNat_inj]
  exact Iff.rfl

theorem decodeCr_ok (hd : decodeCr h = .ok i) (h12 : h.extractLsb' 12 1 = 0) (hrd : cRd h = 0) : ¬cRs2 h = 0 := by
  intro h2
  have hb : h.getLsbD 12 = false := by simpa using congrArg (·.getLsbD 0) h12
  simp only [decodeCr, hb, h2, ↓reduceIte, hrd] at hd
  cases hd

theorem decodeLuiAddi16sp_ok (hd : decodeLuiAddi16sp h = .ok i) (h12 : h.extractLsb' 12 1 = 0) : ¬cRs2 h = 0 := by
  intro h2
  rw [decodeLuiAddi16sp, cImm16sp_of_zero h12 h2, cImm6_of_zero h12 h2] at hd
  split at hd <;> cases hd

theorem decodeMiscAlu_ok (hd : decodeMiscAlu x h = .ok i) :
    (x = .rv32 → h.extractLsb' 12 1 = 1 → ¬h.extractLsb' 11 1 = 0) ∧
    (h.extractLsb' 10 2 = 3 → h.extractLsb' 12 1 = 1 → ¬x = .rv32 ∧ ¬h.extractLsb' 6 1 = 1) := by
  have h11 : h.extractLsb' 11 1 = (h.extractLsb' 10 2).extractLsb' 1 1 :=
    (extract_extract (lo := 10) h (by decide : 1 + 1 ≤ 2)).symm
  have h6 : h.extractLsb' 6 1 = (h.extractLsb' 5 2).extractLsb' 1 1 :=
    (extract_extract (lo := 5) h (by decide : 1 + 1 ≤ 2)).symm
  unfold decodeMiscAlu at hd
  split at hd
  case h_1 h10 | h_2 h10 =>
    obtain ⟨hsh, -⟩ := unreserved_ok hd
    refine ⟨fun hx h12 => absurd (hx ▸ hsh) (not_shamtOk_rv32 h12), fun h3 => ?_⟩
    rw [h10] at h3
    exact absurd h3 (by decide)
  case h_3 h10 =>
    rw [h11, h10]
    exact ⟨fun _ _ => by decide, nofun⟩
  case h_4 h00 h01 h10 =>
    rw [h11, eq_three_of_ne h00 h01 h10, h6]
    refine ⟨fun _ _ => by decide, fun _ h12 => ?_⟩
    have hb : h.getLsbD 12 = true := by simpa using congrArg (·.getLsbD 0) h12
    rw [hb] at hd
    split at hd
    case h_1 hf _ | h_2 hf _ | h_3 hf _ | h_4 hf _ _ _ => cases hf
    case h_5 _ h5 | h_6 _ h5 =>
      obtain ⟨hx, -⟩ := unreserved_ok hd
      rw [h5, eq_of_beq hx]
      decide
    case h_7 => cases hd

/-- Each clause names the slot of its words, whose handler refuses them. -/
theorem not_reservedHalf (hd : decode x (.half h) = .ok i) : ¬ReservedHalf x h := by
  have slot : ∀ {f q c}, h.extractLsb' 13 3 = f → h.extractLsb' 0 2 = q → slot16 x (f ++ q) = some c →
      cSecondLevel x c h = .ok i := by
    rintro _ _ c rfl rfl hs
    rwa [decode_half_some rfl hs] at hd
  rw [reservedHalf_iff]
  rintro (⟨h0, h3, hz⟩ | ⟨h0, h3 | h3, hrd⟩ | ⟨h0, h3, h12, hrd, h2⟩ | ⟨h0, h3, h12, h2⟩ | ⟨rfl, h0, h3, hrd⟩ |
    ⟨rfl, h12, ⟨h0, h3, h11⟩ | ⟨h0, h3⟩⟩ | ⟨h0, h3, h10, h12, hx⟩)
  -- C.ADDI4SPN
  · have hok := (unreserved_ok (slot h3 h0 rfl)).1
    exact bne_iff_ne.1 hok (cImm4spn_of_zero hz)
  -- C.LWSP
  · have hok := (unreserved_ok (slot h3 h0 rfl)).1
    exact bne_iff_ne.1 hok hrd
  -- C.LDSP
  · cases x with
    | rv32 => exact decode_half_none (congrArg₂ (· ++ ·) h3 h0) rfl hd
    | rv64 =>
      have hok := (unreserved_ok (slot h3 h0 rfl)).1
      exact bne_iff_ne.1 hok hrd
  -- C.JR
  · exact decodeCr_ok (slot h3 h0 rfl) h12 hrd h2
  -- C.ADDI16SP and C.LUI
  · exact decodeLuiAddi16sp_ok (slot h3 h0 rfl) h12 h2
  -- C.ADDIW
  · have hok := (unreserved_ok (slot h3 h0 rfl)).1
    exact bne_iff_ne.1 hok hrd
  -- C.SRLI and C.SRAI
  · exact (decodeMiscAlu_ok (slot h3 h0 rfl)).1 rfl h12 h11
  -- C.SLLI
  · exact not_shamtOk_rv32 h12 (unreserved_ok (slot h3 h0 rfl)).1
  -- the CA encodings with bit 12
  · obtain ⟨hn32, hn6⟩ := (decodeMiscAlu_ok (slot h3 h0 rfl)).2 h10 h12
    exact hx.elim hn32 hn6

end

end Sys2Proof

namespace Sys2Proof.Machine

open Sys2Proof.Spec

/-- A word that does not decode raises IllegalInstruction with its own bits, and nothing else happens (R340). -/
theorem execRaw_illegal {r : Raw} {s : State} (h : ∀ i, decode s.cfg.xlen r ≠ .ok i) :
    ∃ t, execRaw r s = .next t ∧ Raises s t .illegalInstruction r.bits := by
  refine ⟨_, ?_, raise_raises .illegalInstruction r.bits s⟩
  unfold execRaw
  split
  case h_1 i hd => exact absurd hd (h i)
  case h_2 => rfl

/-- The compressed table has no slot for the low bits 11 (R320). -/
theorem slot16_low (x : Xlen) (k : Nat) (hk : k < 8) : slot16 x (BitVec.ofNat 5 (4 * k + 3)) = none := by
  cases x <;> interval_cases k <;> rfl

end Sys2Proof.Machine

namespace Sys2Proof.Proofs

open Sys2Proof.Machine

/-- Settles O4: the tables slot by slot; a word decodes only where its slot is installed and its handler's checks pass, and then it is
the encoding of an instruction. -/
theorem installedSlotsAndIllegalWords : Obligations.InstalledSlotsAndIllegalWords := by
  refine ⟨by decide +kernel, by decide +kernel, by decide +kernel, by decide +kernel, slot16_low, fun s => ?_⟩
  refine ⟨fun w hs => execRaw_illegal fun i => ?_, fun h hs => execRaw_illegal fun i => ?_,
    fun w hf => execRaw_illegal fun i hd => ?_, fun h hr => execRaw_illegal fun i hd => ?_,
    fun r hr hne => execRaw_illegal fun i hd => ?_⟩
  · exact decode_full_none (slot32_fid _ w ▸ hs)
  · exact decode_half_none rfl hs
  · obtain ⟨k, h5, h3, hx, hk⟩ := decode_full_ok hd
    exact not_failsSecondLevel h5 h3 hx hk hf
  · exact not_reservedHalf hd hr
  · obtain ⟨hwf, he⟩ := encode_decode (fun w hw => low_eq_of_mod (hr w hw)) hd
    exact hne i hwf he

end Sys2Proof.Proofs
end

section
/-! PROOFS. Words of the XLEN = 64 instructions with XLEN = 32 (R315-R318, R323, R326, R340): their slots are not installed, but for
MISC-ALU's, which refuses them, and C.ADDIW's, which is C.JAL's. -/

namespace Sys2Proof

/-- No word of the XLEN = 64 column decodes with XLEN = 32, but C.ADDIW's. -/
theorem decode_rv32_of_rv64Only {i j : Instr} (h64 : i.rv64Only = true) (hne : ∀ rd imm, i ≠ .cAddiw rd imm) :
    decode .rv32 (encode i) ≠ .ok j := by
  cases i
  case addiw | ld | lwu => exact decode_full_none (by rw [iType_op, iType_f3]; rfl)
  case slliw | srliw | sraiw | addw | subw | sllw | srlw | sraw | mulw | divw | divuw | remw | remuw =>
    exact decode_full_none (by rw [rType_op, rType_f3, rType_bit30]; rfl)
  case sd => exact decode_full_none (by rw [sType_op, sType_f3]; rfl)
  case lrD | scD | amoswapD | amoaddD | amoxorD | amoandD | amoorD | amominD | amomaxD | amominuD | amomaxuD =>
    exact decode_full_none (by rw [amoType_op, amoType_f3]; rfl)
  case cLd | cSd => exact decode_half_none (cid_cldType ..) rfl
  case cLdsp => exact decode_half_none (cid_cldspType ..) rfl
  case cSdsp => exact decode_half_none (cid_csdspType ..) rfl
  case cSubw | cAddw =>
    rw [encode, decode_half_some (cid_caType ..) rfl]
    simp [cSecondLevel, decodeMiscAlu, unreserved]
  case cAddiw rd imm => exact absurd rfl (hne rd imm)
  all_goals cases h64

/-- C.ADDIW's word is C.JAL's (R323). -/
theorem encode_cAddiw (rd : RegIdx) (imm : BitVec 6) :
    encode (.cAddiw rd imm) = encode (.cJal (cImmJ (ciType 0b001#3 imm rd 0b01#2))) := by
  obtain ⟨h3, h0⟩ := cid_fields (cid_ciType 0b001#3 imm rd 0b01#2)
  exact congrArg Raw.half (cjType_of_fields h3 h0).symm

end Sys2Proof

namespace Sys2Proof.Proofs

open Sys2Proof.Machine

/-- Settles O5, by the slots of the XLEN = 64 column. -/
theorem rv64WordsAreIllegalOnRv32 : Obligations.Rv64WordsAreIllegalOnRv32 := by
  refine ⟨fun i s hx h64 hne => execRaw_illegal fun j => hx ▸ decode_rv32_of_rv64Only h64 hne, fun rd imm =>
    ⟨_, encode_cAddiw rd imm, ?_⟩⟩
  rw [encode_cAddiw]
  exact decode_encode _ rfl

/-- Settles O3: each word is what `encode` builds for the instruction, so it decodes to it (`decode_encode`); C.ADDIW with rd = x0 is
refused. -/
theorem writtenWordsDecode : Obligations.WrittenWordsDecode :=
  ⟨decode_encode (.addi 5 6 0xFFD) rfl, decode_encode (.jal 1 0x80) rfl, decode_encode (.sw 6 7 8) rfl,
    decode_encode (.mulhu 5 6 7) rfl, decode_encode (.amoaddW 5 10 6 true false) rfl, decode_encode (.csrrsi 0 8 0x300) rfl, decode_encode .mret rfl,
    decode_encode (.cSw 2 1 1) rfl, decode_encode (.cJal 1) rfl, rfl⟩

end Sys2Proof.Proofs
end

section
/-! PROOFS. A plain fetch (R206, R215, R217, R300, R301): the bytes at pc as one instruction, and the step that runs it. -/

namespace Sys2Proof.Machine

open Sys2Proof.Spec

/-! ### The instruction in four bytes -/

/-- The instruction whose bytes stand at `p` (R201, R301). -/
def rawAt (m : Memory) (p : Nat) : Raw :=
  if (Memory.read m p).toNat % 4 = 3 then .full (BitVec.ofNat 32 (leNat m p 4)) else .half (BitVec.ofNat 16 (leNat m p 2))

theorem leNat_mod_four (m : Memory) (p n : Nat) : leNat m p (n + 1) % 4 = (Memory.read m p).toNat % 4 := by
  rw [leNat]
  omega

theorem leNat_two (m : Memory) (p : Nat) : leNat m p 2 = (Memory.read m p).toNat + 256 * (Memory.read m (p + 1)).toNat := rfl

theorem leNat_four (m : Memory) (p : Nat) : leNat m p 4 = leNat m p 2 + 2 ^ 16 * leNat m (p + 2) 2 := by
  simp only [leNat, Nat.add_assoc, Nat.reduceAdd]
  omega

/-- Two halves, the first at the lower address (R201). -/
theorem ofNat_halves (m : Memory) (p : Nat) :
    BitVec.ofNat 16 (leNat m (p + 2) 2) ++ BitVec.ofNat 16 (leNat m p 2) = BitVec.ofNat 32 (leNat m p 4) := by
  have hlo : leNat m p 2 < 2 ^ 16 := leNat_lt m p (by decide)
  apply BitVec.eq_of_toNat_eq
  rw [append_toNat, leNat_four, BitVec.toNat_ofNat, BitVec.toNat_ofNat, BitVec.toNat_ofNat]
  omega

theorem parcel_read (m : Memory) (p : Nat) : parcel (Memory.read m p) (Memory.read m (p + 1)) = BitVec.ofNat 16 (leNat m p 2) := by
  apply BitVec.eq_of_toNat_eq
  rw [parcel, append_toNat, leNat_two, BitVec.toNat_ofNat]
  omega

/-- The first instruction of a byte list that holds the four bytes at `p`. -/
theorem rawOfBytes_read (m : Memory) (p : Nat) : ∃ rest,
    rawOfBytes ((List.range 4).map fun k => Memory.read m (p + k)) = .ok (rawAt m p, rest) := by
  have hlow : (Memory.read m p).extractLsb' 0 2 = 0b11#2 ↔ (Memory.read m p).toNat % 4 = 3 := by
    rw [← BitVec.toNat_inj, BitVec.extractLsb'_toNat]
    rfl
  change ∃ rest, rawOfBytes [Memory.read m p, Memory.read m (p + 1), Memory.read m (p + 2), Memory.read m (p + 2 + 1)] = _
  rw [rawAt, rawOfBytes]
  by_cases h : (Memory.read m p).toNat % 4 = 3
  · rw [if_neg (not_not.2 (hlow.2 h)), if_pos h, parcel_read, parcel_read, ofNat_halves]
    exact ⟨_, rfl⟩
  · rw [if_pos (mt hlow.1 h), if_neg h, parcel_read]
    exact ⟨_, rfl⟩

/-- The instruction of a 4-byte read (R301). -/
theorem rawOfWord_readLE (m : Memory) (p : Nat) : rawOfWord (Memory.readLE m p 4) = rawAt m p := by
  have h16 : BitVec.ofNat 16 (leNat m p 4) = BitVec.ofNat 16 (leNat m p 2) := by
    apply BitVec.eq_of_toNat_eq
    rw [leNat_four, BitVec.toNat_ofNat, BitVec.toNat_ofNat]
    omega
  rw [rawOfWord_eq, readLE_toNat _ _ (by decide), leNat_mod_four, setWidth_readLE _ _ (by decide), setWidth_readLE _ _ (by decide), h16]
  rfl

/-! ### A plain fetch -/

/-- An untranslated fetch in one page and inside RAM. -/
theorem subAccess_bare {s : State} {va n : Nat} (hva : va < 2 ^ 64) (hb : s.paging = .bare) (ht : TlbIdentity s.tlb)
    (hr : s.cfg.inRam va n = true) : ∃ tlb, TlbIdentity tlb ∧
    subAccess (BitVec.ofNat 64 va) n .exec 0 s = .ok (Memory.readLE s.mem va n) { s with tlb := tlb } := by
  obtain ⟨tlb, h, hid⟩ := translate_bare (BitVec.ofNat 64 va) .exec s hb ht
  rw [toNat_ofNat_of_lt hva] at h
  exact ⟨tlb, hid, subAccess_ram _ va n .exec 0 s _ h hr⟩

theorem fetch_plain {s : State} (he : PcEven s) (h : PlainRam s s.pc.toNat 4) :
    ∃ tlb, fetch s = .ok (rawAt s.mem s.pc.toNat) { s with tlb := tlb } := by
  obtain ⟨hb, htlb, hfits, hr⟩ := h
  have hle := modulus_le s
  have hpc : BitVec.ofNat 64 s.pc.toNat = s.pc := by rw [BitVec.ofNat_toNat, BitVec.setWidth_eq]
  by_cases hend : s.pc.toNat % 4096 = 0xFFE
  · obtain ⟨tlb, hid, hlo⟩ := subAccess_bare s.pc.isLt hb (htlb.toIdentity hb) (inRam_part (k := 2) hr (Nat.le_refl _) (by omega))
    rw [hpc] at hlo
    have hmod : (Memory.readLE s.mem s.pc.toNat 2).toNat % 4 = (Memory.read s.mem s.pc.toNat).toNat % 4 := by
      rw [readLE_toNat _ _ (by decide), leNat_mod_four]
    by_cases hc : (Memory.read s.mem s.pc.toNat).toNat % 4 = 3
    · obtain ⟨tlb', -, hhi⟩ := subAccess_bare (s := { s with tlb := tlb }) (va := s.pc.toNat + 2) (by omega) hb hid
        (inRam_part (k := 2) hr (by omega) (by omega))
      refine ⟨tlb', ?_⟩
      rw [fetch_pageEnd_full he hend hlo (hmod.trans hc), Nat.mod_eq_of_lt (by omega), hhi, Res.bind, setWidth_readLE _ _ (by decide),
        setWidth_readLE _ _ (by decide), ofNat_halves, rawAt, if_pos hc]
    · refine ⟨tlb, ?_⟩
      rw [fetch_pageEnd_half he hend hlo (hmod ▸ hc), setWidth_readLE _ _ (by decide), rawAt, if_neg hc]
  · obtain ⟨tlb, -, hw⟩ := subAccess_bare s.pc.isLt hb (htlb.toIdentity hb) hr
    rw [hpc] at hw
    refine ⟨tlb, ?_⟩
    rw [fetch_word he hend, hw, Res.bind, rawOfWord_readLE]

/-! ### The step -/

theorem hartTurn_runs {s : State} (hb : boundaryInterrupt s = none) : hartTurn s = (fetch s).finish execRaw := by
  rw [hartTurn, hb, runInstruction]

/-- The hart's turn, whether the list of moves names it or is empty (R10, R300, R940). -/
theorem step_runs_turn {s : State} (hw : s.cfg.wf = true) (hr : s.runState = .running)
    (ht : s.turns = [] ∨ ∃ l, s.turns = .hart :: l) (hb : boundaryInterrupt s = none) :
    step s = (fetch { s with turns := s.turns.tail }).finish execRaw := by
  obtain ht | ⟨l, ht⟩ := ht
  · rw [step_runs hw hr ht hb, ht, List.tail_nil, ← ht]
  · rw [step, if_pos hw, ht]
    exact (if_pos hr).trans (hartTurn_runs hb)

theorem decodeBytes_read {x : Xlen} {m : Memory} {p : Nat} {i : Instr} {rest : List Byte}
    (h : decodeBytes x ((List.range 4).map fun k => Memory.read m (p + k)) = .ok (i, rest)) : decode x (rawAt m p) = .ok i := by
  obtain ⟨rest', hraw⟩ := rawOfBytes_read m p
  rw [decodeBytes, hraw] at h
  cases hd : decode x (rawAt m p) with
  | error e =>
    simp only [hd] at h
    cases h
  | ok j =>
    simp only [hd] at h
    cases h
    rfl

end Sys2Proof.Machine

namespace Sys2Proof.Proofs

open Sys2Proof.Machine Sys2Proof.Spec

/-- Settles O6: a plain fetch gives the instruction of the bytes at pc, within a page or across its end. -/
theorem stepRunsTheDecodedInstruction : Obligations.StepRunsTheDecodedInstruction := by
  intro s i rest hw hr ht hb he _ hp hd
  obtain ⟨hbare, ⟨hone, hin, hid⟩, hfits, hram⟩ := hp
  obtain ⟨tlb, hf⟩ := fetch_plain (s := { s with turns := s.turns.tail }) he ⟨hbare, ⟨hone, hin, hid⟩, hfits, hram⟩
  refine ⟨tlb, ?_⟩
  rw [step_runs_turn hw hr ht hb, hf, Res.finish, execRaw, decodeBytes_read hd]

end Sys2Proof.Proofs
end

section
/-! PROOFS. The computational instructions as numbers (R31, R431, R432): what a function of register values computes modulo 2^n, the
immediates, and each shared form of the instructions as `retired` with that number. -/

namespace Sys2Proof

theorem Xlen.le_bits (x : Xlen) : 32 ≤ x.bits := by cases x <;> decide

end Sys2Proof

namespace Sys2Proof.Machine

open Sys2Proof.Spec

/-! ### Functions of register values as numbers -/

/-- On `n` bits the function `f` of bit vectors is `op` of their numbers, modulo 2^n. -/
def ComputesInt (n : Nat) (f : BinOp) (op : Nat → Nat → Int) : Prop :=
  ∀ a b : BitVec n, f n a b = BitVec.ofInt n (op a.toNat b.toNat)

section
variable (n : Nat)

theorem computesInt_add : ComputesInt n Alu.add (fun a b => a + b) := Alu.add_eq n

theorem computesInt_sub : ComputesInt n Alu.sub (fun a b => a - b) := Alu.sub_eq n

theorem computesInt_xor : ComputesInt n Alu.xor (fun a b => (a ^^^ b : Nat)) := Alu.xor_eq n

theorem computesInt_or : ComputesInt n Alu.or (fun a b => (a ||| b : Nat)) := Alu.or_eq n

theorem computesInt_and : ComputesInt n Alu.and (fun a b => (a &&& b : Nat)) := Alu.and_eq n

theorem computesInt_sll : ComputesInt n Alu.sll (fun a b => (a * 2 ^ (b % n) : Nat)) := Alu.sll_eq n

theorem computesInt_srl : ComputesInt n Alu.srl (fun a b => (a / 2 ^ (b % n) : Nat)) := Alu.srl_eq n

theorem computesInt_sra : ComputesInt n Alu.sra (fun a b => Int.bmod a (2 ^ n) / 2 ^ (b % n)) := fun a b => by
  rw [Alu.sra_eq, toInt_eq_bmod]

end

variable {s : State} {f : BinOp} {op : Nat → Nat → Int}

/-- The result of a function at width XLEN (R31). -/
theorem writeBack_lift (h : ComputesInt s.cfg.xlen.bits f op) (rd : RegIdx) (a b : Word) (len : Nat) :
    writeBack rd (s.cfg.xlen.lift f a b) len s = .next (retired s rd (op (a.toNat % modulus s) (b.toNat % modulus s)) len) := by
  apply writeBack_retired
  rw [Xlen.trunc_lift, asWord_eq]
  refine Xlen.lift_eq _ f a b _ fun A B hA hB => ?_
  rw [h A B, hA, hB, modulus]

/-- The result of a W form: the 32-bit result, sign-extended (R432). -/
theorem writeBack_wForm (h : ComputesInt 32 f op) (rd : RegIdx) (a b : Word) (len : Nat) :
    writeBack rd (wForm f a b) len s = .next (retired s rd (sx32 (op (a.toNat % 2 ^ 32) (b.toNat % 2 ^ 32))) len) := by
  apply writeBack_retired
  rw [asWord_eq, wForm, h, BitVec.signExtend, BitVec.toInt_ofInt, sx32, low, low, BitVec.toNat_setWidth, BitVec.toNat_setWidth]

/-- The result of a comparison (R403, R404, R414, R415). -/
theorem writeBack_boolWord (p : Prop) [Decidable p] (rd : RegIdx) (len : Nat) :
    writeBack rd (boolWord (decide p)) len s = .next (retired s rd (if p then 1 else 0) len) := by
  apply writeBack_retired
  by_cases h : p
  · rw [decide_eq_true h, if_pos h]
    exact trunc_asWord_of_toNat s rfl
  · rw [decide_eq_false h, if_neg h]
    exact trunc_asWord_of_toNat s rfl

/-! ### Immediates and shift amounts -/

/-- Numbers that agree modulo 2^XLEN are the same result. -/
theorem retired_congr {x y : Int} (h : x % modulus s = y % modulus s) (rd : RegIdx) (len : Nat) :
    retired s rd x len = retired s rd y len := by
  rw [retired, retired, wrote, wrote, asWord, asWord, h]

theorem uImm_eq (s : State) {n : Nat} (v : BitVec n) : (uImm s v : Int) = v.toInt % modulus s :=
  Int.toNat_of_nonneg (Int.emod_nonneg _ (by have := modulus_pos s; omega))

/-- A sign-extended immediate is the number of the statements (R306). -/
theorem sext_toNat_mod (s : State) {n : Nat} (v : BitVec n) : (s.cfg.xlen.sext v).toNat % modulus s = uImm s v := by
  rw [modulus, ← Xlen.trunc_toNat, Xlen.trunc_sext, Xlen.sext_eq, BitVec.toNat_ofInt, uImm, modulus]
  cases s.cfg.xlen <;> simp only [Xlen.bits] <;> omega

/-- The signed reading of a sign-extended immediate is the immediate's own (R31). -/
theorem uImm_bmod (s : State) {n : Nat} (hn : n ≤ 32) (v : BitVec n) : Int.bmod (uImm s v) (modulus s) = v.toInt := by
  have hle : 2 ^ n ≤ modulus s := Nat.pow_le_pow_right (by decide) (Nat.le_trans hn s.cfg.xlen.le_bits)
  have hlo := v.le_two_mul_toInt
  have hhi := v.two_mul_toInt_lt
  have hcast : (2 : Int) ^ n = (2 ^ n : Nat) := by norm_cast
  rw [uImm_eq, Int.emod_bmod]
  exact Int.bmod_eq_of_le_mul_two (by omega) (by omega)

theorem sext_emod_32 (x : Xlen) {n : Nat} (v : BitVec n) : ((x.sext v).toNat : Int) % 2 ^ 32 = v.toInt % 2 ^ 32 := by
  rw [Xlen.sext_eq, BitVec.toNat_ofInt]
  cases x <;> simp only [Xlen.bits] <;> omega

/-- The low 32 bits of a sign-extended immediate, in a W form's sum (R421). -/
theorem sx32_add_sext (a : Int) (x : Xlen) {n : Nat} (v : BitVec n) :
    sx32 (a + ((x.sext v).toNat % 2 ^ 32 : Nat)) = sx32 (a + v.toInt) := by
  have h : (((x.sext v).toNat % 2 ^ 32 : Nat) : Int) = v.toInt % (2 ^ 32 : Nat) := sext_emod_32 x v
  rw [sx32, sx32, h, Int.add_emod_bmod]

/-- An immediate above `k` zeros is scaled by 2^k (R306, R322). -/
theorem append_zero_toInt {m : Nat} (hm : m ≠ 0) (v : BitVec m) (k : Nat) : (v ++ 0#k).toInt = v.toInt * 2 ^ k := by
  rw [BitVec.toInt_append, if_neg (by simpa using hm), BitVec.toNat_ofNat, Nat.zero_mod, Int.mul_comm]
  exact Int.add_zero _

theorem trunc_immU (s : State) (imm : BitVec 20) : s.cfg.xlen.trunc (immU s.cfg.xlen imm) = asWord s (imm.toInt * 4096) := by
  rw [immU, trunc_sext_asWord, append_zero_toInt (by decide)]
  rfl

/-- A word and an offset added modulo 2^XLEN. -/
theorem trunc_add_asWord {off : Word} {o : Int} (h : s.cfg.xlen.trunc off = asWord s o) (a : Word) :
    s.cfg.xlen.trunc (a + off) = asWord s (a.toNat + o) := by
  rw [BitVec.add_comm, ← Xlen.trunc_add, h, asWord_eq, Xlen.trunc_add, BitVec.add_comm, asWord_eq, BitVec.ofInt_add, ofInt_toNat]

theorem zext_toNat_mod {n k : Nat} (hn : n ≤ k) (hk : k ≤ 64) (v : BitVec n) : (zext v).toNat % 2 ^ k = v.toNat := by
  have hv : v.toNat < 2 ^ k := Nat.lt_of_lt_of_le v.isLt (Nat.pow_le_pow_right (by decide) hn)
  rw [zext, BitVec.toNat_setWidth, Nat.mod_mod_of_dvd _ (Nat.pow_dvd_pow 2 hk), Nat.mod_eq_of_lt hv]

/-- An arithmetic shift right is the quotient rounded down (R418). -/
theorem sshiftRight_toInt {n : Nat} (v : BitVec n) (k : Nat) : (v.sshiftRight k).toInt = v.toInt / 2 ^ k := by
  rw [BitVec.toInt_sshiftRight, Int.shiftRight_eq_div_pow]
  norm_cast

/-- An arithmetic shift of a 32-bit value is one of 32 bits (R424, R429). -/
theorem sx32_sra (s : State) (r : RegIdx) (k : Nat) : sx32 (s32 s r / 2 ^ k) = s32 s r / 2 ^ k := by
  have h : s32 s r = (low 32 (s.x r)).toInt := by
    rw [toInt_eq_bmod, low, BitVec.toNat_setWidth]
    rfl
  rw [h, ← sshiftRight_toInt, sx32, BitVec.toInt_bmod_cancel]

/-! ### Legal instructions -/

/-- A shift amount below XLEN is legal (R315, R431). -/
theorem shamtOk_of_lt {x : Xlen} {shamt : BitVec 6} (h : shamt.toNat < x.bits) : shamtOk x shamt = true := by
  cases x
  case rv32 =>
    have h5 : shamt.getLsbD 5 = false := Nat.testBit_lt_two_pow h
    rw [shamtOk, h5, Bool.not_false]
  case rv64 => rfl

/-- With XLEN = 64 an instruction whose row's constraint holds is legal (R340). -/
theorem whenLegal_rv64 {i : Instr} (hx : s.cfg.xlen = .rv64) (h : i.rowOk .rv64 = true) (k : State → Out) :
    whenLegal i s k = k s := by
  apply whenLegal_of_wf
  rw [hx, Instr.wf, h, Bool.and_true]
  exact Bool.or_true _

/-! ### Comparisons -/

theorem cond_lt_registers (s : State) (rs1 rs2 : RegIdx) : Cond.lt s.cfg.xlen (s.x rs1) (s.x rs2) = decide (sg s rs1 < sg s rs2) :=
  Cond.lt_iff _ _ _

theorem cond_ltu_registers (s : State) (rs1 rs2 : RegIdx) : Cond.ltu s.cfg.xlen (s.x rs1) (s.x rs2) = decide (u s rs1 < u s rs2) :=
  Cond.ltu_iff _ _ _

theorem cond_lt_immediate (s : State) (rs1 : RegIdx) (imm : BitVec 12) :
    Cond.lt s.cfg.xlen (s.x rs1) (s.cfg.xlen.sext imm) = decide (sg s rs1 < imm.toInt) := by
  rw [Cond.lt_iff, ← modulus, sext_toNat_mod, uImm_bmod s (by decide)]
  rfl

theorem cond_ltu_immediate (s : State) (rs1 : RegIdx) (imm : BitVec 12) :
    Cond.ltu s.cfg.xlen (s.x rs1) (s.cfg.xlen.sext imm) = decide (u s rs1 < uImm s imm) := by
  rw [Cond.ltu_iff, ← modulus, sext_toNat_mod]
  rfl

/-! ### The forms of the instructions -/

section
variable (h : ComputesInt s.cfg.xlen.bits f op) (rd rs1 : RegIdx)
include h

theorem aluRR_retired (rs2 : RegIdx) : aluRR f rd rs1 rs2 s = .next (retired s rd (op (u s rs1) (u s rs2)) 4) :=
  writeBack_lift h rd _ _ 4

theorem aluRI_retired (imm : BitVec 12) : aluRI f rd rs1 imm s = .next (retired s rd (op (u s rs1) (uImm s imm)) 4) := by
  rw [aluRI, writeBack_lift h, sext_toNat_mod]
  rfl

theorem aluShift_retired (shamt : BitVec 6) : aluShift f rd rs1 shamt s = .next (retired s rd (op (u s rs1) shamt.toNat) 4) := by
  rw [aluShift, writeBack_lift h, modulus, zext_toNat_mod (Nat.le_trans (by decide) s.cfg.xlen.le_bits) s.cfg.xlen.bits_le]
  rfl

end

section
variable (h : ComputesInt 32 f op) (rd rs1 : RegIdx)
include h

theorem aluW_retired (rs2 : RegIdx) : aluW f rd rs1 (s.x rs2) s = .next (retired s rd (sx32 (op (u32 s rs1) (u32 s rs2))) 4) :=
  writeBack_wForm h rd _ _ 4

theorem aluW_shift_retired (shamt : BitVec 5) :
    aluW f rd rs1 (zext shamt) s = .next (retired s rd (sx32 (op (u32 s rs1) shamt.toNat)) 4) := by
  rw [aluW, writeBack_wForm h, zext_toNat_mod (by decide) (by decide)]
  rfl

end

end Sys2Proof.Machine
end

section
/-! PROOFS. The computational instructions (40_integer.md): sums, bitwise operations, comparisons, shifts and W forms. -/

namespace Sys2Proof.Proofs

open Sys2Proof.Machine Sys2Proof.Spec

/-- Settles O12: ADD and SUB on register values, ADDI, LUI and AUIPC with their immediates modulo 2^XLEN. -/
theorem addSubUpperResults : Obligations.AddSubUpperResults := by
  intro s rd rs1 rs2 imm imm20
  have hImm : (u s rs1 + uImm s imm : Int) % modulus s = (u s rs1 + imm.toInt) % modulus s := by
    rw [uImm_eq, Int.add_emod_emod]
  refine ⟨?add, ?sub, ?addi, ?lui, ?auipc⟩
  case add => exact (exec_add rd rs1 rs2 s).trans (aluRR_retired (computesInt_add _) rd rs1 rs2)
  case sub => exact (exec_sub rd rs1 rs2 s).trans (aluRR_retired (computesInt_sub _) rd rs1 rs2)
  case addi => rw [exec_addi, aluRI_retired (computesInt_add _), retired_congr hImm]
  case lui => exact (exec_lui rd imm20 s).trans (writeBack_retired (trunc_immU s imm20) rd 4)
  case auipc => exact (exec_auipc rd imm20 s).trans (writeBack_retired (trunc_add_asWord (trunc_immU s imm20) s.pc) rd 4)

/-- Settles O13: the bitwise operations on numbers, and the comparisons as the two readings of the operands order them. -/
theorem bitwiseAndComparisonResults : Obligations.BitwiseAndComparisonResults := by
  intro s rd rs1 rs2 imm
  refine ⟨?xor, ?or, ?and, ?xori, ?ori, ?andi, ?slt, ?sltu, ?slti, ?sltiu⟩
  case xor => exact (exec_xor rd rs1 rs2 s).trans (aluRR_retired (computesInt_xor _) rd rs1 rs2)
  case or => exact (exec_or rd rs1 rs2 s).trans (aluRR_retired (computesInt_or _) rd rs1 rs2)
  case and => exact (exec_and rd rs1 rs2 s).trans (aluRR_retired (computesInt_and _) rd rs1 rs2)
  case xori => exact (exec_xori rd rs1 imm s).trans (aluRI_retired (computesInt_xor _) rd rs1 imm)
  case ori => exact (exec_ori rd rs1 imm s).trans (aluRI_retired (computesInt_or _) rd rs1 imm)
  case andi => exact (exec_andi rd rs1 imm s).trans (aluRI_retired (computesInt_and _) rd rs1 imm)
  case slt => rw [exec_slt, cond_lt_registers, writeBack_boolWord]
  case sltu => rw [exec_sltu, cond_ltu_registers, writeBack_boolWord]
  case slti => rw [exec_slti, cond_lt_immediate, writeBack_boolWord]
  case sltiu => rw [exec_sltiu, cond_ltu_immediate, writeBack_boolWord]

/-- Settles O14: the amount modulo XLEN, which an immediate amount is below. -/
theorem shiftResults : Obligations.ShiftResults := by
  intro s rd rs1 rs2 shamt
  refine ⟨?sll, ?srl, ?sra, fun h => ?immediate⟩
  case sll => exact (exec_sll rd rs1 rs2 s).trans (aluRR_retired (computesInt_sll _) rd rs1 rs2)
  case srl => exact (exec_srl rd rs1 rs2 s).trans (aluRR_retired (computesInt_srl _) rd rs1 rs2)
  case sra => exact (exec_sra rd rs1 rs2 s).trans (aluRR_retired (computesInt_sra _) rd rs1 rs2)
  case immediate =>
    have hok := shamtOk_of_lt h
    have hmod := Nat.mod_eq_of_lt h
    refine ⟨?slli, ?srli, ?srai⟩
    case slli => rw [exec_slli, whenLegal_of_wf (i := .slli rd rs1 shamt) hok, aluShift_retired (computesInt_sll _), hmod]
    case srli => rw [exec_srli, whenLegal_of_wf (i := .srli rd rs1 shamt) hok, aluShift_retired (computesInt_srl _), hmod]
    case srai =>
      rw [exec_srai, whenLegal_of_wf (i := .srai rd rs1 shamt) hok, aluShift_retired (computesInt_sra _), hmod]
      rfl

/-- Settles O15: each W form is its function on 32 bits, with the result sign-extended. -/
theorem wordFormResults : Obligations.WordFormResults := by
  intro s rd rs1 rs2 c d imm imm6 shamt hx
  have hshamt : shamt.toNat % 32 = shamt.toNat := Nat.mod_eq_of_lt shamt.isLt
  refine ⟨?addiw, ?addw, ?subw, ?slliw, ?srliw, ?sraiw, ?sllw, ?srlw, ?sraw, fun hrd => ?cAddiw, ?cSubw, ?cAddw⟩
  case addiw =>
    rw [exec_addiw, whenLegal_rv64 hx rfl, aluW, writeBack_wForm (computesInt_add _), sx32_add_sext]
    rfl
  case addw => rw [exec_addw, whenLegal_rv64 hx rfl, aluW_retired (computesInt_add _)]
  case subw => rw [exec_subw, whenLegal_rv64 hx rfl, aluW_retired (computesInt_sub _)]
  case slliw =>
    rw [exec_slliw, whenLegal_rv64 hx rfl, aluW_shift_retired (computesInt_sll _), hshamt]
    norm_cast
  case srliw =>
    rw [exec_srliw, whenLegal_rv64 hx rfl, aluW_shift_retired (computesInt_srl _), hshamt]
    norm_cast
  case sraiw =>
    rw [exec_sraiw, whenLegal_rv64 hx rfl, aluW_shift_retired (computesInt_sra _), hshamt, ← sx32_sra]
    rfl
  case sllw =>
    rw [exec_sllw, whenLegal_rv64 hx rfl, aluW_retired (computesInt_sll _)]
    norm_cast
  case srlw =>
    rw [exec_srlw, whenLegal_rv64 hx rfl, aluW_retired (computesInt_srl _)]
    norm_cast
  case sraw =>
    rw [exec_sraw, whenLegal_rv64 hx rfl, aluW_retired (computesInt_sra _), ← sx32_sra]
    rfl
  case cAddiw =>
    rw [exec_cAddiw, whenLegal_rv64 (i := .cAddiw rd imm6) hx (bne_iff_ne.mpr hrd),
      writeBack_wForm (computesInt_add _), sx32_add_sext]
    rfl
  case cSubw =>
    rw [exec_cSubw, whenLegal_rv64 hx rfl, writeBack_wForm (computesInt_sub _)]
    rfl
  case cAddw =>
    rw [exec_cAddw, whenLegal_rv64 hx rfl, writeBack_wForm (computesInt_add _)]
    rfl

end Sys2Proof.Proofs
end

section
/-! PROOFS. Control transfers (R31, R302, R450): targets as numbers, and the shared ends of the jumps and the branches as `linked` and
`goesTo`. -/

namespace Sys2Proof.Machine

open Sys2Proof.Spec

/-! ### Targets -/

/-- Numbers that agree modulo 2^XLEN are the same word (R31). -/
theorem asWord_congr {s : State} {a b : Int} (h : a % modulus s = b % modulus s) : asWord s a = asWord s b := by
  rw [asWord, asWord, h]

/-- A branch or jump offset is twice its encoded number (R306, R322). -/
theorem trunc_offsetOf (s : State) {n : Nat} (hn : n ≠ 0) (offset : BitVec n) :
    s.cfg.xlen.trunc (offsetOf s.cfg.xlen offset) = asWord s (2 * offset.toInt) := by
  rw [offsetOf, trunc_sext_asWord, append_zero_toInt hn, Int.pow_one, Int.mul_comm]

/-- The target of a jump or a branch relative to pc (R450). -/
theorem trunc_pc_add_offsetOf (s : State) {n : Nat} (hn : n ≠ 0) (offset : BitVec n) :
    s.cfg.xlen.trunc (s.pc + offsetOf s.cfg.xlen offset) = asWord s (s.pc.toNat + 2 * offset.toInt) :=
  trunc_add_asWord (trunc_offsetOf s hn offset) s.pc

/-- Clearing bit 0 is shifting it out. -/
theorem and_not_one {n : Nat} (w : BitVec n) : w &&& ~~~1#n = (w >>> 1) <<< 1 := by
  ext i hi
  cases i with
  | zero => simp
  | succ i => simp [Nat.add_comm 1 i, BitVec.getLsbD_eq_getElem hi]

/-- Clearing bit 0 of a number rounds it down to an even one. -/
theorem ofInt_and_not_one (a : Int) : BitVec.ofInt 64 a &&& ~~~1#64 = BitVec.ofInt 64 (2 * (a / 2)) := by
  rw [and_not_one, BitVec.toNat_eq, BitVec.toNat_shiftLeft, BitVec.toNat_ushiftRight, BitVec.toNat_ofInt, BitVec.toNat_ofInt]
  omega

/-- The target of a jump through a register: bit 0 of the sum is cleared (R452). -/
theorem trunc_registerTarget {s : State} {off : Word} {o : Int} (h : s.cfg.xlen.trunc off = asWord s o) (r : RegIdx) :
    s.cfg.xlen.trunc (registerTarget r off s) = asWord s (2 * ((u s r + o) / 2)) := by
  have hu : asWord s ((s.x r).toNat + o) = asWord s (u s r + o) := asWord_congr (Int.emod_add_emod _ _ _).symm
  rw [registerTarget, Xlen.trunc_and, trunc_add_asWord h, hu, asWord_eq, ← Xlen.trunc_and, ofInt_and_not_one, ← asWord_eq]

/-! ### Ends of a control transfer -/

theorem setPc_goesTo {s : State} {v : Word} {x : Int} (h : s.cfg.xlen.trunc v = asWord s x) : s.setPc v = goesTo s x := by
  rw [State.setPc, h, goesTo]

theorem jumpLink_linked {s : State} {t : Word} {x : Int} (h : s.cfg.xlen.trunc t = asWord s x) (rd : RegIdx) (len : Nat) :
    jumpLink rd t len s = .next (linked s rd x len) := by
  rw [jumpLink_eq, h, pcPlus_eq]
  rfl

theorem branchIf_goesTo {taken : Bool} {p : Prop} [Decidable p] (hp : taken = true ↔ p) (s : State) {n : Nat} (hn : n ≠ 0)
    (offset : BitVec n) (len : Nat) :
    branchIf taken (offsetOf s.cfg.xlen offset) len s =
      .next (goesTo s (if p then s.pc.toNat + 2 * offset.toInt else s.pc.toNat + len)) := by
  rw [branchIf]
  by_cases h : p
  · rw [if_pos (hp.mpr h), if_pos h, setPc_goesTo (trunc_pc_add_offsetOf s hn offset)]
  · rw [if_neg (mt hp.mp h), if_neg h, ← noEffect, noEffect_goesTo]

/-! ### Conditions of register values -/

theorem cond_eq_registers (s : State) (rs1 rs2 : RegIdx) : Cond.eq s.cfg.xlen (s.x rs1) (s.x rs2) = decide (u s rs1 = u s rs2) :=
  Cond.eq_iff _ _ _

end Sys2Proof.Machine
end

section
/-! PROOFS. The jumps and the branches (41_control.md). -/

namespace Sys2Proof.Proofs

open Sys2Proof.Machine Sys2Proof.Spec

/-- Settles O19: each instruction is a jump with its target or a branch on its condition, and BNE, BGE and BGEU negate the conditions of
BEQ, BLT and BLTU. -/
theorem jumpAndBranchResults : Obligations.JumpAndBranchResults := by
  intro s rd rs1 rs2 off20 offset imm next
  have branch {taken : Bool} (p : Prop) [Decidable p] (hp : taken = true ↔ p) :
      branchIf taken (offsetOf s.cfg.xlen offset) 4 s = .next (next p) := branchIf_goesTo hp s (by decide) offset 4
  refine ⟨?jal, ?jalr, ?beq, ?bne, ?blt, ?bge, ?bltu, ?bgeu⟩
  case jal => exact (exec_jal rd off20 s).trans (jumpLink_linked (trunc_pc_add_offsetOf s (by decide) off20) rd 4)
  case jalr => exact (exec_jalr rd rs1 imm s).trans (jumpLink_linked (trunc_registerTarget (trunc_sext_asWord s imm) rs1) rd 4)
  case beq => exact (exec_beq rs1 rs2 offset s).trans (branch _ (by rw [cond_eq_registers, decide_eq_true_iff]))
  case bne => exact (exec_bne rs1 rs2 offset s).trans (branch _ (by simp [cond_eq_registers]))
  case blt => exact (exec_blt rs1 rs2 offset s).trans (branch _ (by rw [cond_lt_registers, decide_eq_true_iff]))
  case bge => exact (exec_bge rs1 rs2 offset s).trans (branch _ (by simp [cond_lt_registers]))
  case bltu => exact (exec_bltu rs1 rs2 offset s).trans (branch _ (by rw [cond_ltu_registers, decide_eq_true_iff]))
  case bgeu => exact (exec_bgeu rs1 rs2 offset s).trans (branch _ (by simp [cond_ltu_registers]))

end Sys2Proof.Proofs
end

section
/-! PROOFS. The fences, C.NOP and WFI (42_loadstore.md, R704, R756). -/

namespace Sys2Proof.Proofs

open Sys2Proof.Machine Sys2Proof.Spec

/-- Settles O20: each instruction ends with no effect but the advance of pc, WFI once its privilege check has passed. -/
theorem noOperations : Obligations.NoOperations := by
  intro s fm pred succ rs1 rd imm imm6
  refine ⟨?fence, ?fenceI, ?cNop, fun hpriv => ?wfi⟩
  case fence => exact (exec_fence fm pred succ rs1 rd s).trans (noEffect_goesTo 4 s)
  case fenceI => exact (exec_fenceI imm rs1 rd s).trans (noEffect_goesTo 4 s)
  case cNop => exact (exec_cNop imm6 s).trans (noEffect_goesTo 2 s)
  case wfi => exact ((exec_wfi s).trans (if_neg hpriv)).trans (noEffect_goesTo 4 s)

end Sys2Proof.Proofs
end

section
/-! PROOFS. Multiply and divide as numbers (R551-R558): each function modulo 2^n, the two signed divisions with their cases for a zero
divisor and for overflow. -/

namespace Sys2Proof.Machine

open Sys2Proof.Spec

/-! ### Products -/

section
variable (n : Nat)

theorem computesInt_mul : ComputesInt n Alu.mul (fun a b => a * b) := Alu.mul_eq n

theorem computesInt_mulh : ComputesInt n Alu.mulh (fun a b => Int.bmod a (2 ^ n) * Int.bmod b (2 ^ n) / (2 ^ n : Nat)) := fun a b => by
  rw [Alu.mulh_eq, toInt_eq_bmod, toInt_eq_bmod, Nat.cast_pow, Nat.cast_ofNat]

theorem computesInt_mulhsu : ComputesInt n Alu.mulhsu (fun a b => Int.bmod a (2 ^ n) * b / (2 ^ n : Nat)) := fun a b => by
  rw [Alu.mulhsu_eq, toInt_eq_bmod, Nat.cast_pow, Nat.cast_ofNat]

theorem computesInt_mulhu : ComputesInt n Alu.mulhu (fun a b => (a * b / 2 ^ n : Nat)) := Alu.mulhu_eq n

end

/-! ### Quotients and remainders -/

/-- Signed division overflows on `n` bits: the least number by -1 (R555). -/
abbrev DivOverflow (n a b : Nat) : Prop := Int.bmod a (2 ^ n) = -(2 ^ (n - 1)) ∧ Int.bmod b (2 ^ n) = -1

/-- The signed quotient on `n` bits (R555). -/
def signedQuotient (n a b : Nat) : Int :=
  if b = 0 then -1 else if DivOverflow n a b then -(2 ^ (n - 1)) else (Int.bmod a (2 ^ n)).tdiv (Int.bmod b (2 ^ n))

/-- The signed remainder on `n` bits (R557). -/
def signedRemainder (n a b : Nat) : Int :=
  if b = 0 then (a : Int) else if DivOverflow n a b then 0
  else Int.bmod a (2 ^ n) - Int.bmod b (2 ^ n) * (Int.bmod a (2 ^ n)).tdiv (Int.bmod b (2 ^ n))

/-- The result of a signed division by zero is -1 (R555). -/
theorem allOnes_eq_ofInt (n : Nat) : BitVec.allOnes n = BitVec.ofInt n (-1) := by
  rw [BitVec.ofInt_neg, ← BitVec.neg_one_eq_allOnes]
  rfl

/-- The result of an unsigned division by zero is the greatest number (R556). -/
theorem allOnes_eq_ofInt_max (n : Nat) : BitVec.allOnes n = BitVec.ofInt n ((2 ^ n : Nat) - 1) := by
  have h : ((BitVec.allOnes n).toNat : Int) = (2 ^ n : Nat) - 1 := by
    rw [BitVec.toNat_allOnes, Int.natCast_pred_of_pos (Nat.two_pow_pos n)]
  rw [← h, ofInt_toNat]

section
variable {n : Nat}

theorem intMin_eq_ofInt (hn : 0 < n) : BitVec.intMin n = BitVec.ofInt n (-(2 ^ (n - 1))) := by
  rw [← BitVec.toInt_intMin_of_pos hn, ofInt_toInt]

theorem divOverflow_iff (hn : 0 < n) (a b : BitVec n) :
    a = BitVec.intMin n ∧ b = BitVec.allOnes n ↔ DivOverflow n a.toNat b.toNat := by
  have hmin : (BitVec.intMin n).toInt = -(2 ^ (n - 1)) := BitVec.toInt_intMin_of_pos hn
  have hones : (BitVec.allOnes n).toInt = -1 := BitVec.toInt_allOnes.trans (if_pos hn)
  rw [DivOverflow, ← toInt_eq_bmod, ← toInt_eq_bmod, ← hmin, ← hones, BitVec.toInt_inj, BitVec.toInt_inj]

theorem computesInt_div (hn : 0 < n) : ComputesInt n Alu.div (signedQuotient n) := fun a b => by
  rw [Alu.div, signedQuotient, apply_ite (BitVec.ofInt n), apply_ite (BitVec.ofInt n), toInt_eq_bmod a, toInt_eq_bmod b]
  exact if_congr BitVec.toNat_inj.symm (allOnes_eq_ofInt n) (if_congr (divOverflow_iff hn a b) (intMin_eq_ofInt hn) rfl)

theorem computesInt_rem (hn : 0 < n) : ComputesInt n Alu.rem (signedRemainder n) := fun a b => by
  rw [Alu.rem, signedRemainder, apply_ite (BitVec.ofInt n), apply_ite (BitVec.ofInt n), toInt_eq_bmod a, toInt_eq_bmod b]
  exact if_congr BitVec.toNat_inj.symm (ofInt_toNat a).symm (if_congr (divOverflow_iff hn a b) rfl rfl)

end

theorem computesInt_divu (n : Nat) :
    ComputesInt n Alu.divu (fun a b => if b = 0 then ((2 ^ n : Nat) : Int) - 1 else (a / b : Nat)) := fun a b => by
  rw [Alu.divu, apply_ite (BitVec.ofInt n), BitVec.ofInt_natCast]
  exact if_congr BitVec.toNat_inj.symm (allOnes_eq_ofInt_max n) rfl

theorem computesInt_remu (n : Nat) : ComputesInt n Alu.remu (fun a b => if b = 0 then (a : Int) else (a % b : Nat)) := fun a b => by
  rw [Alu.remu, apply_ite (BitVec.ofInt n), ofInt_toNat, BitVec.ofInt_natCast]
  exact if_congr BitVec.toNat_inj.symm rfl rfl

/-! ### The results of the W forms (R564) -/

/-- A signed remainder is a signed number of the same width. -/
theorem bmod_tmod (n a b : Nat) :
    Int.bmod ((Int.bmod a (2 ^ n)).tmod (Int.bmod b (2 ^ n))) (2 ^ n) = (Int.bmod a (2 ^ n)).tmod (Int.bmod b (2 ^ n)) := by
  rw [← BitVec.toInt_ofNat, ← BitVec.toInt_ofNat, ← BitVec.toInt_srem, BitVec.toInt_bmod_cancel]

theorem sx32_signedQuotient (a b : Nat) : sx32 (signedQuotient 32 a b) =
    if b = 0 then -1 else if DivOverflow 32 a b then -(2 ^ 31) else sx32 ((sx32 a).tdiv (sx32 b)) := by
  rw [signedQuotient, apply_ite sx32, apply_ite sx32]
  rfl

theorem sx32_signedRemainder (a b : Nat) : sx32 (signedRemainder 32 a b) =
    if b = 0 then sx32 a else if DivOverflow 32 a b then 0 else sx32 a - sx32 b * (sx32 a).tdiv (sx32 b) := by
  have hrem : sx32 ((sx32 a).tmod (sx32 b)) = (sx32 a).tmod (sx32 b) := bmod_tmod 32 a b
  rw [Int.tmod_def] at hrem
  rw [signedRemainder, apply_ite sx32, apply_ite sx32, ← hrem]
  rfl

end Sys2Proof.Machine
end

section
/-! PROOFS. Multiply and divide (43_muldiv.md). -/

namespace Sys2Proof.Proofs

open Sys2Proof.Machine Sys2Proof.Spec

/-- Settles O16: each half of the product, as the number its function computes modulo 2^XLEN. -/
theorem multiplyResults : Obligations.MultiplyResults := by
  intro s rd rs1 rs2
  refine ⟨?mul, ?mulh, ?mulhsu, ?mulhu⟩
  case mul => exact (exec_mul rd rs1 rs2 s).trans (aluRR_retired (computesInt_mul _) rd rs1 rs2)
  case mulh => exact (exec_mulh rd rs1 rs2 s).trans (aluRR_retired (computesInt_mulh _) rd rs1 rs2)
  case mulhsu => exact (exec_mulhsu rd rs1 rs2 s).trans (aluRR_retired (computesInt_mulhsu _) rd rs1 rs2)
  case mulhu => exact (exec_mulhu rd rs1 rs2 s).trans (aluRR_retired (computesInt_mulhu _) rd rs1 rs2)

/-- Settles O17: each division as the number its function computes, with the model's tests for a zero divisor and for overflow read as
tests of numbers (`divOverflow_iff`). -/
theorem divideResults : Obligations.DivideResults := by
  intro s rd rs1 rs2 overflow
  have hn : 0 < s.cfg.xlen.bits := Nat.lt_of_lt_of_le (by decide) s.cfg.xlen.le_bits
  refine ⟨?div, ?divu, ?rem, ?remu⟩
  case div => exact (exec_div rd rs1 rs2 s).trans (aluRR_retired (computesInt_div hn) rd rs1 rs2)
  case divu => exact (exec_divu rd rs1 rs2 s).trans (aluRR_retired (computesInt_divu _) rd rs1 rs2)
  case rem => exact (exec_rem rd rs1 rs2 s).trans (aluRR_retired (computesInt_rem hn) rd rs1 rs2)
  case remu => exact (exec_remu rd rs1 rs2 s).trans (aluRR_retired (computesInt_remu _) rd rs1 rs2)

/-- Settles O18: the functions on 32 bits, whose result for each edge case and whose remainder the sign extension leaves as they are. -/
theorem wordMulDivResults : Obligations.WordMulDivResults := by
  intro s rd rs1 rs2 hx overflow
  refine ⟨?mulw, ?divw, ?divuw, ?remw, ?remuw⟩
  case mulw => rw [exec_mulw, whenLegal_rv64 hx rfl, aluW_retired (computesInt_mul 32)]
  case divw =>
    rw [exec_divw, whenLegal_rv64 hx rfl, aluW_retired (computesInt_div (by decide)), sx32_signedQuotient]
    rfl
  case divuw =>
    rw [exec_divuw, whenLegal_rv64 hx rfl, aluW_retired (computesInt_divu _), apply_ite sx32]
    rfl
  case remw =>
    rw [exec_remw, whenLegal_rv64 hx rfl, aluW_retired (computesInt_rem (by decide)), sx32_signedRemainder]
    rfl
  case remuw =>
    rw [exec_remuw, whenLegal_rv64 hx rfl, aluW_retired (computesInt_remu _), apply_ite sx32]
    rfl

end Sys2Proof.Proofs
end

section
/-! PROOFS. LR, SC and the AMOs in RAM (R601, R605, R607-R632): without translation and through the page tables. -/

namespace Sys2Proof.Machine

open Sys2Proof.Spec

/-! ### SC -/

/-- An SC writes no more bytes than a register has (R611, R613). -/
theorem scForm_dvd_modulus {i : Instr} {rd rs1 rs2 : RegIdx} {n : Nat} {s : State} (h : scForm i = some (rd, rs1, rs2, n))
    (hw : i.wf s.cfg.xlen = true) : 256 ^ n ∣ modulus s := by
  unfold modulus
  cases i with
  | scW => cases h; cases s.cfg.xlen <;> decide
  | scD => cases h; rw [rv64_of_wf rfl hw]; decide
  | _ => cases h

/-- An aligned SC without the reservation answers 1 and makes no access (R609, R611). -/
theorem exec_sc_unreserved {i : Instr} {rd rs1 rs2 : RegIdx} {n : Nat} {s : State} (h : scForm i = some (rd, rs1, rs2, n))
    (hw : i.wf s.cfg.xlen = true) (ha : u s rs1 % n = 0) (hs : s.resv = false) :
    exec i s = .next { retired s rd 1 4 with resv := false } := by
  rw [exec_scForm h hw, doSc, effAddr_zero, misaligned_u ha, hs]
  exact writeBack_retired (s := { s with resv := false }) (trunc_asWord_of_toNat _ rfl) rd 4

/-- An aligned SC with the reservation, whose write stores in RAM after what its translation wrote back (R605, R611, R613). -/
theorem exec_sc_stored {i : Instr} {rd rs1 rs2 : RegIdx} {n p : Nat} {s : State} {M : Memory} {tlb : List TlbEntry}
    (h : scForm i = some (rd, rs1, rs2, n)) (hw : i.wf s.cfg.xlen = true) (ha : u s rs1 % n = 0) (hs : s.resv = true)
    (hr : memWrite (BitVec.ofNat 64 (u s rs1)) n (s.x rs2) s =
      .ok () { s with mem := Memory.writeLE M p n (s.x rs2), tlb := tlb }) :
    ∃ t, exec i s = .next t ∧ Stored M t.mem p n (u s rs2) ∧
      t = { retired s rd 0 4 with resv := false, mem := t.mem, tlb := t.tlb } :=
  ⟨_, exec_sc_ok h hw ha hs hr, stored_writeLE M p (Nat.mod_mod_of_dvd _ (scForm_dvd_modulus h hw)).symm, rfl⟩

/-! ### AMOs -/

/-- Without translation the address is its own, and the TLB at most is new (R217). -/
theorem translate_plain {s : State} {va n : Nat} (hva : va < 2 ^ 64) (h : PlainRam s va n) (acc : Access) :
    ∃ tlb, translate (BitVec.ofNat 64 va) acc s = .ok va { s with tlb := tlb } := by
  obtain ⟨tlb, ht, -⟩ := translate_bare (BitVec.ofNat 64 va) acc s h.bare (h.tlb.toIdentity h.bare)
  exact ⟨tlb, by rw [ht, toNat_ofNat_of_lt hva]⟩

theorem amoForm_bytes {i : Instr} {f : AmoForm} {s : State} (h : amoForm i = some f) (hw : i.wf s.cfg.xlen = true) :
    f.bytes ≤ 8 := by
  obtain ⟨g, hg⟩ := exists_isAmo h hw
  rcases hg.bytes with hb | hb <;> omega

/-- A number written in `n` bytes, as the word that holds it. -/
theorem ofNat_mod_pow {n : Nat} (hn : n ≤ 8) (x : Nat) : (BitVec.ofNat 64 x).toNat % 256 ^ n = x % 256 ^ n :=
  Nat.mod_mod_of_dvd x (Nat.pow_dvd_pow 256 hn)

/-- An aligned AMO whose translation reaches RAM, after what it wrote back: one read and one write of the same bytes (R605, R608,
R632). -/
theorem exec_amo_stored {i : Instr} {f : AmoForm} {s : State} {p : Nat} {M : Memory} {tlb : List TlbEntry}
    (h : amoForm i = some f) (hw : i.wf s.cfg.xlen = true) (ha : u s f.rs1 % f.bytes = 0) (hp : s.cfg.inRam p f.bytes = true)
    (ht : translate (BitVec.ofNat 64 (u s f.rs1)) .write s = .ok p { s with mem := M, tlb := tlb }) :
    ∃ t, exec i s = .next t ∧ ResvAfterStore s t ∧
      Stored M t.mem p f.bytes (f.op (leNat M p f.bytes) (u s f.rs2 % 256 ^ f.bytes)) ∧
      t = { retired s f.rd (Int.bmod (leNat M p f.bytes) (256 ^ f.bytes)) 4 with
        mem := t.mem, tlb := t.tlb, resv := t.resv, free := t.free } := by
  have hn := amoForm_bytes h hw
  obtain ⟨t, he, hresv, hframe⟩ := exec_amo_ok h hw ha ht (physAccess_ram p f.bytes .read 0 _ hp) (Memory.readLE_lt M p _ hn)
    (physAccess_ram p f.bytes .write _ _ hp)
  have hold : (ramAnswer .read p f.bytes { s with mem := M, tlb := tlb }).toNat = leNat M p f.bytes := readLE_toNat M p hn
  rw [hold] at hframe
  refine ⟨t, he, hresv, ?_, ?_⟩
  · rw [hframe]
    exact stored_writeLE M p (ofNat_mod_pow hn _)
  · rw [hframe]
    rfl

end Sys2Proof.Machine

namespace Sys2Proof.Proofs

open Sys2Proof.Machine Sys2Proof.Spec

/-- Settles O30: LR's read and SC's write are the accesses of a load and of a store in RAM. -/
theorem loadReservedStoreConditional : Obligations.LoadReservedStoreConditional := by
  intro s i n hw
  refine ⟨fun rd rs1 hf ha => ?lr, fun rd rs1 rs2 hf ha => ?sc⟩
  case lr =>
    have hn : n ≤ 8 := by
      obtain ⟨-, hn⟩ := exec_lrForm hf hw
      omega
    refine ⟨fun hm => ?plain, fun p up hm => ?mapped⟩
    case plain =>
      obtain ⟨tlb, hr⟩ := memRead_plain hn (u_lt s rs1) hm
      exact ⟨tlb, readLE_toNat s.mem _ hn ▸ exec_lr_ok hf hw ha hr (Memory.readLE_lt _ _ _ hn)⟩
    case mapped =>
      obtain ⟨tlb, hr⟩ := memRead_mapped hm
      exact ⟨tlb, readLE_toNat _ p hn ▸ exec_lr_ok hf hw ha hr (Memory.readLE_lt _ _ _ hn)⟩
  case sc =>
    refine ⟨exec_sc_unreserved hf hw ha, fun hs hm => ?plain, fun p up hs hm => ?mapped⟩
    case plain =>
      have hn : n ≤ 8 := by
        have := scForm_bytes hf
        omega
      obtain ⟨tlb, hr⟩ := memWrite_plain hn (u_lt s rs1) hm (s.x rs2)
      exact exec_sc_stored hf hw ha hs hr
    case mapped =>
      obtain ⟨tlb, hr⟩ := memWrite_mapped hm (s.x rs2)
      rw [writeBackPte_frame] at hr
      exact exec_sc_stored hf hw ha hs hr

/-- Settles O31: one translation for a write, then a read and a write of RAM at the address that it gives. -/
theorem amoResults : Obligations.AmoResults := by
  intro s i f hf hw ha result
  refine ⟨fun hm => ?plain, fun p up hm => ?mapped⟩
  case plain =>
    obtain ⟨tlb, ht⟩ := translate_plain (u_lt s f.rs1) hm .write
    exact exec_amo_stored hf hw ha hm.ram ht
  case mapped =>
    obtain ⟨tlb, -, ht⟩ := hm.translate
    rw [writeBackPte_frame] at ht
    exact exec_amo_stored hf hw ha hm.ram ht

end Sys2Proof.Proofs
end

section
/-! PROOFS. What leaves the reservation alone (R601, R602). -/

namespace Sys2Proof.Machine

open Sys2Proof.Spec

/-- The instructions that may change the reservation, by the forms of the statements. -/
theorem reserves_eq (i : Instr) : reserves i = (storing i || (lrForm i).isSome) := by cases i <;> rfl

/-- After its accesses an instruction that is none of those leaves the reservation alone. -/
theorem finishKept_resv : FinishKept false fun s t => t.resv = s.resv where
  refl _ := rfl
  trans h h' := h'.trans h
  tick _ := rfl
  setX := State.setX_resv
  setPc _ _ _ := rfl
  resv h := nomatch h
  flush _ := rfl
  csr _ _ _ _ _ h := by rw [csrAccess_frame h]
  raise c v s := by rw [raise_frame c v s]
  xret l s := by rw [requestXret_frame l s]

/-- No access changes the reservation. -/
theorem AccessFrame.resv {s t : State} (h : AccessFrame s t) : t.resv = s.resv := by rw [h]

/-- An instruction that is no LR, SC, store or AMO keeps the reservation. -/
theorem exec_keeps_resv {i : Instr} {s t : State} (hs : storing i = false) (hl : lrForm i = none) (ht : exec i s = .next t) :
    t.resv = s.resv := by
  have hr : reserves i = false := by rw [reserves_eq, hs, hl]; rfl
  obtain ⟨m, u, hu, ha, hf⟩ := exec_completes i (accessKept_frame _) (hr ▸ finishKept_resv) s
  obtain rfl : u = t := Host.Outcome.next.inj (hu.symm.trans ht)
  exact hf.trans ha.resv

end Sys2Proof.Machine

namespace Sys2Proof.Proofs

open Sys2Proof.Machine Sys2Proof.Spec

/-- Settles O58: an instruction is its accesses, which have a frame, and a rest that keeps the reservation; traps, the moves of the
other agents and fetches have frames too. -/
theorem onlyAtomicsAndStoresChangeTheReservation : Obligations.OnlyAtomicsAndStoresChangeTheReservation := by
  refine ⟨fun i s t => exec_keeps_resv, fun c v s => ?raise, fun i s => ?interrupt, fun m s => ?agent, fun s => ?fetch⟩
  case raise => rw [raise_frame]
  case interrupt => rw [takeInterrupt_frame]
  case agent =>
    obtain ⟨-, -, -, hresv, -⟩ := agentMove_frame m s
    exact hresv
  case fetch =>
    have hk := (accessKept_frame false).fetch s
    cases h : fetch s <;> rw [h] at hk <;> exact hk.resv

end Sys2Proof.Proofs
end

section
/-! PROOFS. CSR instructions by the policy of their entry (R650-R663): read-write entries, read-only ones, and the accesses that are
rejected. -/

namespace Sys2Proof.Machine

open Sys2Proof.Spec

/-! ### Accesses that answer and accesses that are rejected -/

/-- At sufficient privilege an access is the one that its entry's policy makes (R651, R661). -/
theorem csrAccess_of_priv {a : BitVec 12} {s : State} (hp : (a.extractLsb' 8 2).toNat ≤ s.priv.code) (op : CsrOp) (w : Word) :
    csrAccess a op w s = policyAccess (csrPolicy s.cfg (a.extractLsb' 8 2) (a.extractLsb' 0 8))
      (csrKey (a.extractLsb' 8 2) (a.extractLsb' 0 8)) op w s := if_neg (by omega)

/-- Below the bank's privilege it is rejected (R651). -/
theorem csrAccess_none_of_priv {a : BitVec 12} {s : State} (hp : s.priv.code < (a.extractLsb' 8 2).toNat) (op : CsrOp) (w : Word) :
    csrAccess a op w s = none := if_pos hp

/-- What the policy rejects is rejected at every privilege. -/
theorem csrAccess_none_of_policy {a : BitVec 12} {op : CsrOp} {w : Word} {s : State}
    (h : policyAccess (csrPolicy s.cfg (a.extractLsb' 8 2) (a.extractLsb' 0 8))
      (csrKey (a.extractLsb' 8 2) (a.extractLsb' 0 8)) op w s = none) : csrAccess a op w s = none := by
  by_cases hp : s.priv.code < (a.extractLsb' 8 2).toNat
  · exact csrAccess_none_of_priv hp op w
  · rw [csrAccess_of_priv (by omega), h]

/-- A CSR instruction whose access is rejected is illegal (R661). -/
theorem doCsr_rejected {i : Instr} {rd : RegIdx} {a : BitVec 12} {op : CsrOp} {w : Word} {s : State}
    (h : csrAccess a op w s = none) : doCsr i rd a op w s = illegal i s := by
  rw [doCsr, h]

/-- An entry that `CSR_CONFIG` does not list is illegal (R125). -/
theorem csrPolicy_unlisted {cfg : Config} {bank : BitVec 2} {id : Byte}
    (h : ∀ e ∈ cfg.csrConfig, ¬(e.bank = bank ∧ e.id = id)) : csrPolicy cfg bank id = .ill := by
  have hnone : cfg.csrConfig.find? (fun e => e.bank == bank && e.id == id) = none :=
    List.find?_eq_none.2 fun e he => by simpa using h e he
  rw [csrPolicy, hnone]

/-! ### The value that is stored -/

/-- Bits of the value that a write stores (R650). -/
theorem storedBit_eq {x : Xlen} (op : CsrOp) (old w : Word) {j : Nat} (hj : j < x.bits) :
    (x.trunc (op.apply old w)).getLsbD j = newBit op old.toNat w.toNat j := by
  rw [Xlen.trunc_getLsbD, newBit_eq op old w (Nat.lt_of_lt_of_le hj x.bits_le)]
  simp [hj]

/-- An operation leaves an XLEN-bit value as it is when it leaves each bit (R660). -/
theorem stored_eq_old_iff {x : Xlen} {old : Word} (h : InWidth x old) (op : CsrOp) (w : Word) :
    x.trunc (op.apply old w) = old ↔ ∀ j, j < x.bits → newBit op old.toNat w.toNat j = old.getLsbD j := by
  constructor
  · intro he j hj
    rw [← storedBit_eq op old w hj, he]
  · intro hb
    refine BitVec.eq_of_getLsbD_eq fun j _ => ?_
    by_cases hj : j < x.bits
    · rw [storedBit_eq op old w hj, hb j hj]
    · have hold : old.getLsbD j = false := Bool.eq_false_iff.2 fun hc => hj ((inWidth_iff x old).1 h j hc)
      rw [Xlen.trunc_getLsbD, hold, decide_eq_false hj, Bool.false_and]

end Sys2Proof.Machine

namespace Sys2Proof.Proofs

open Sys2Proof.Machine Sys2Proof.Spec

/-- Settles O33: the access of a read-write entry stores the post-operation value under the entry's own key. -/
theorem readWriteCsrAccess : Obligations.ReadWriteCsrAccess := by
  intro s i rd a op v hf hw hp hpol k
  obtain ⟨w, he, rfl⟩ := exec_csrForm hw hf
  have hacc := csrAccess_of_priv hp op w
  rw [hpol] at hacc
  refine ⟨_, he.trans (doCsr_retired hacc), rfl, fun j hj => ?_, fun j hj => ?_⟩
  · exact (State.csrAt_setCsr s k j _).trans (if_neg (by simpa using hj))
  · exact (congrArg (·.getLsbD j) (State.csrAt_setCsr_self s k _)).trans (storedBit_eq op _ w hj)

/-- Settles O34: a rejected access is an illegal instruction, and a read-only entry rejects every access that would change it. -/
theorem rejectedCsrAccess : Obligations.RejectedCsrAccess := by
  intro s i rd a op v hf hw k pol rejects unchanged
  obtain ⟨w, he, rfl⟩ := exec_csrForm hw hf
  have rejected (h : csrAccess a op w s = none) : rejects := execRaises_of_illegal (he.trans (doCsr_rejected h)) rfl
  have ill (h : pol = .ill) : rejects := rejected (csrAccess_none_of_policy (congrArg (policyAccess · k op w s) h))
  have hro (h : pol = .ro) : policyAccess pol k op w s =
      if s.cfg.xlen.trunc (op.apply (s.csrAt k) w) = s.csrAt k then some (s.csrAt k, s) else none := by rw [h]; rfl
  have hiff := stored_eq_old_iff (State.csrAt_width hw.csr k) op w
  refine ⟨fun hp => rejected (csrAccess_none_of_priv hp op w), ill, fun h => ill (csrPolicy_unlisted h), fun h hc => ?_,
    fun h hu hp => ?_⟩
  · exact rejected (csrAccess_none_of_policy ((hro h).trans (if_neg (mt hiff.1 hc))))
  · exact he.trans (doCsr_retired ((csrAccess_of_priv hp op w).trans ((hro h).trans (if_pos (hiff.2 hu)))))

end Sys2Proof.Proofs
end

section
/-! PROOFS. CSR instructions on satp (R107, R108, R131, R667, R668): the mode and the root as numbers, and what a write commits. -/

namespace Sys2Proof.Machine

open Sys2Proof.Spec

/-! ### The fields of satp -/

/-- MODE is bit 31 when XLEN = 32 (R131). -/
theorem satpMode_rv32 {v : Word} (h : v.toNat < 2 ^ 32) :
    satpMode .rv32 v = if v.toNat / 2 ^ 31 = 1 then some .sv32 else some .bare := by
  have hmode : field v 31 1 = v.toNat / 2 ^ 31 := by rw [field_eq]; omega
  rw [satpMode, hmode]

/-- MODE is bits 63:60 when XLEN = 64; 0, 8 and 9 are supported (R131, R667). -/
theorem satpMode_rv64 (v : Word) :
    satpMode .rv64 v = if v.toNat / 2 ^ 60 = 0 then some .bare else if v.toNat / 2 ^ 60 = 8 then some .sv39
      else if v.toNat / 2 ^ 60 = 9 then some .sv48 else none := by
  have hmode : field v 60 4 = v.toNat / 2 ^ 60 := by
    have := v.isLt
    rw [field_eq]; omega
  rw [satpMode, hmode]
  split
  case h_1 h => rw [h]; rfl
  case h_2 h => rw [h]; rfl
  case h_3 h => rw [h]; rfl
  case h_4 h0 h8 h9 => rw [if_neg h0, if_neg h8, if_neg h9]

theorem satpRoot_rv32 (v : Word) : satpRoot .rv32 v = v.toNat % 2 ^ 22 * 4096 := by
  rw [satpRoot, field_eq, pow_zero, Nat.div_one]

theorem satpRoot_rv64 (v : Word) : satpRoot .rv64 v = v.toNat % 2 ^ 44 * 4096 := by
  rw [satpRoot, field_eq, pow_zero, Nat.div_one]

/-! ### The access -/

/-- satp's address names a bank of S-mode (R121). -/
theorem bank_satp {a : BitVec 12} (h : a.extractLsb' 0 10 = 0x180) : (a.extractLsb' 8 2).toNat = 1 := by
  have hbank : a.extractLsb' 8 2 = (a.extractLsb' 0 10).extractLsb' 8 2 := by ext j; simp [BitVec.getElem_extractLsb']
  rw [hbank, h]
  rfl

/-- The access to satp in the reference bank: the old value, and a write of the post-operation value (R668). -/
theorem csrAccess_satp {a : BitVec 12} {s : State} (hc : ReferenceCsrs s) (ha : a.extractLsb' 0 10 = 0x180)
    (hp : 1 ≤ s.priv.code) (op : CsrOp) (w : Word) : csrAccess a op w s =
      some (s.csrAt kSatp, satpWrite (s.cfg.xlen.trunc (op.apply (s.csrAt kSatp) w)) s) := by
  have hacc := csrAccess_address (op := op) (w := w) ha (by rwa [bank_satp ha])
  exact hacc.trans (congrArg (policyAccess · kSatp op w s) (csrPolicy_satp hc))

end Sys2Proof.Machine

namespace Sys2Proof.Proofs

open Sys2Proof.Machine Sys2Proof.Spec

/-- Settles O36: the value that is written is an XLEN-bit number with the operation's bits, and its MODE decides what is committed. -/
theorem satpWrites : Obligations.SatpWrites := by
  intro s i rd a op v hf hw hc ha hp
  obtain ⟨w, he, rfl⟩ := exec_csrForm hw hf
  have hexec := he.trans (doCsr_retired (csrAccess_satp hc ha hp op w))
  have hbits := fun j hj => storedBit_eq (x := s.cfg.xlen) op (s.csrAt kSatp) w (j := j) hj
  have hwidth := Xlen.trunc_trunc s.cfg.xlen (op.apply (s.csrAt kSatp) w)
  generalize s.cfg.xlen.trunc (op.apply (s.csrAt kSatp) w) = new at hexec hbits hwidth
  have hlt := (Xlen.trunc_eq_self_iff _ _).1 hwidth
  refine ⟨_, new.toNat, hexec, hlt, hbits, ?_⟩
  intro mode
  have hmode : satpMode s.cfg.xlen new = mode := by
    unfold mode
    cases hx : s.cfg.xlen with
    | rv32 => exact satpMode_rv32 (by rwa [hx] at hlt)
    | rv64 => exact satpMode_rv64 new
  cases hm : mode with
  | none => rw [satpWrite_none (hmode.trans hm)]
  | some m =>
    have hroot : satpRoot s.cfg.xlen new = new.toNat % (match s.cfg.xlen with | .rv32 => 2 ^ 22 | .rv64 => 2 ^ 44) * 4096 := by
      cases s.cfg.xlen with
      | rv32 => exact satpRoot_rv32 new
      | rv64 => exact satpRoot_rv64 new
    rw [satpWrite_some (hmode.trans hm), hroot]
    refine ⟨rfl, ?_, fun j hj => ?_⟩
    · rw [BitVec.ofNat_toNat, BitVec.setWidth_eq]
      exact (State.csrAt_setCsr_self s kSatp new).trans hwidth
    · exact (State.csrAt_setCsr s kSatp j new).trans (if_neg (by simpa using hj))

end Sys2Proof.Proofs
end

section
/-! PROOFS. ECALL, EBREAK and C.EBREAK (R700, R701, R780): each does nothing but raise its cause. -/

namespace Sys2Proof.Proofs

open Sys2Proof.Machine Sys2Proof.Spec

/-- Settles O37: each of the three instructions is a `fail` from the state before it, so it raises and does nothing else. -/
theorem environmentCallsAndBreakpoints : Obligations.EnvironmentCallsAndBreakpoints := by
  intro s
  refine ⟨?ecall, execRaises_of_fail (exec_ebreak s), execRaises_of_fail (exec_cEbreak s), rfl⟩
  obtain ⟨t, hexec, hraises⟩ := execRaises_of_fail (exec_ecall s)
  exact ⟨t, hexec, hraises, by cases s.priv <;> rfl⟩

end Sys2Proof.Proofs
end

section
/-! PROOFS. PLIC selection (R953, R954): the selection loop leaves a candidate that no other is served before. -/

namespace Sys2Proof.Spec

open Sys2Proof.Machine

variable {p : Plic} {n c : Nat}

/-! ### The order of service -/

theorem before_iff (p : Plic) (a b : Nat) : Before p a b ↔
    (p.prioOf b).toNat < (p.prioOf a).toNat ∨ ((p.prioOf a).toNat = (p.prioOf b).toNat ∧ a < b) := by
  rw [Before, BitVec.toNat_eq]

theorem Before.trans {a b d : Nat} (h : Before p a b) (h' : Before p b d) : Before p a d := by
  rw [before_iff] at *
  omega

theorem not_before_self (p : Plic) (a : Nat) : ¬Before p a a := by
  rw [before_iff]
  omega

/-- The order is total on ids. -/
theorem eq_or_before_of_not_before {a b : Nat} (h : ¬Before p a b) : a = b ∨ Before p b a := by
  rw [before_iff] at *
  omega

/-! ### Candidates -/

theorem Candidate.ne_zero {k : Nat} (h : Candidate p n c k) : k ≠ 0 := Nat.ne_of_gt h.1

theorem candidate_succ_iff (p : Plic) (n c k : Nat) :
    Candidate p (n + 1) c k ↔ Candidate p n c k ∨ (k = n ∧ p.isPending n = true ∧ p.valid c n = true) := by
  have hv : p.valid c n = true ↔ n ≠ 0 ∧ (p.enables c).getLsbD n = true ∧ (p.thresholdOf c).toNat < (p.prioOf n).toNat := by
    simp [Plic.valid, and_assoc]
  rw [hv]
  constructor
  · rintro ⟨h1, hlt, hrest⟩
    rcases Nat.lt_succ_iff_lt_or_eq.mp hlt with hlt | rfl
    · exact .inl ⟨h1, hlt, hrest⟩
    · exact .inr ⟨rfl, hrest.1, Nat.ne_of_gt h1, hrest.2⟩
  · rintro (⟨h1, hlt, hrest⟩ | ⟨rfl, hpending, h0, hrest⟩)
    · exact ⟨h1, Nat.lt_succ_of_lt hlt, hrest⟩
    · exact ⟨Nat.pos_of_ne_zero h0, Nat.lt_succ_self _, hpending, hrest⟩

theorem beats_iff (p : Plic) (a b : Nat) : p.beats a b = true ↔ b = 0 ∨ Before p a b := by
  simp [Plic.beats, Before, or_assoc]

/-! ### The loop -/

/-- What the loop leaves of the first `n` ids, where it starts with `first`: `first` itself or a candidate served before it (any
candidate, where `first` is none), and no candidate served before that. -/
structure Leads (p : Plic) (n c first b : Nat) : Prop where
  chosen : b = first ∨ (Candidate p n c b ∧ (first = 0 ∨ Before p b first))
  leads : ∀ k, Candidate p n c k → b ≠ 0 ∧ ¬Before p k b

/-- One turn of the loop. -/
theorem Leads.consider {first b : Nat} (h : Leads p n c first b) : Leads p (n + 1) c first (p.consider c b n) := by
  obtain ⟨hchosen, hleads⟩ := h
  rw [Plic.consider]
  split
  case isTrue ht =>
    rw [Bool.and_eq_true, Bool.and_eq_true, beats_iff] at ht
    obtain ⟨hcand, hbeats⟩ := ht
    have hn : Candidate p (n + 1) c n := (candidate_succ_iff p n c n).mpr (.inr ⟨rfl, hcand⟩)
    refine ⟨.inr ⟨hn, ?_⟩, fun k hk => ⟨hn.ne_zero, fun hkn => ?_⟩⟩
    · rcases hchosen with rfl | ⟨hb, hfirst⟩
      · exact hbeats
      · exact hfirst.imp_right (hbeats.resolve_left hb.ne_zero).trans
    · rcases (candidate_succ_iff p n c k).mp hk with hk | ⟨rfl, -⟩
      · obtain ⟨hb0, hkb⟩ := hleads k hk
        exact hkb (hkn.trans (hbeats.resolve_left hb0))
      · exact not_before_self p k hkn
  case isFalse ht =>
    rw [Bool.and_eq_true, Bool.and_eq_true, beats_iff] at ht
    refine ⟨hchosen.imp_right fun ⟨hb, hfirst⟩ => ⟨(candidate_succ_iff p n c b).mpr (.inl hb), hfirst⟩, fun k hk => ?_⟩
    rcases (candidate_succ_iff p n c k).mp hk with hk | ⟨rfl, hcand⟩
    · exact hleads k hk
    · exact not_or.mp fun hbeats => ht ⟨hcand, hbeats⟩

theorem foldl_consider_leads (p : Plic) (n c first : Nat) : Leads p n c first ((List.range n).foldl (p.consider c) first) := by
  induction n with
  | zero => exact ⟨.inl rfl, fun k hk => absurd hk.2.1 (Nat.not_lt_zero k)⟩
  | succ n ih =>
    rw [List.range_succ, List.foldl_append]
    exact ih.consider

theorem Leads.best {b : Nat} (h : Leads p n c 0 b) : Best p n c b := by
  obtain ⟨hchosen, hleads⟩ := h
  rcases hchosen with rfl | ⟨hb, -⟩
  · exact .inl ⟨rfl, fun k hk => (hleads k hk).1 rfl⟩
  · exact .inr ⟨hb, fun k hk => eq_or_before_of_not_before (hleads k hk).2⟩

/-- What `Select(c, keep)` chooses (R954). -/
theorem choice_selected (p : Plic) (n c : Nat) (keep : Bool) : Selected p n c keep (p.choice n c keep) := by
  have h := foldl_consider_leads p n c (if keep then p.claimOf c else 0)
  rw [← Plic.choice] at h
  rw [Selected]
  split
  case isTrue hk =>
    obtain ⟨hkeep, hclaim⟩ := hk
    rw [if_pos hkeep] at h
    rcases h.chosen with hb | ⟨hb, hfirst⟩
    · exact .inl ⟨hb, fun k hk => hb ▸ (h.leads k hk).2⟩
    · exact .inr ⟨hb, hfirst.resolve_left hclaim, fun k hk => eq_or_before_of_not_before (h.leads k hk).2⟩
  case isFalse hk =>
    have h0 : (if keep then p.claimOf c else 0) = 0 := by
      split
      · next hkeep => exact Decidable.not_not.mp fun h0 => hk ⟨hkeep, h0⟩
      · rfl
    exact (h0 ▸ h).best

/-- A selection stays among the ids that exist. -/
theorem Selected.lt {keep : Bool} {b : Nat} (h : Selected p n c keep b) (hn : p.claimOf c < n) : b < n := by
  have hbest : Best p n c b → b < n := by
    rintro (⟨rfl, -⟩ | ⟨hb, -⟩)
    · exact Nat.zero_lt_of_lt hn
    · exact hb.2.1
  rw [Selected] at h
  split at h
  · rcases h with ⟨rfl, -⟩ | ⟨hb, -⟩
    · exact hn
    · exact hb.2.1
  · exact hbest h

end Sys2Proof.Spec

namespace Sys2Proof.Machine

open Sys2Proof.Spec

/-! ### Selection on the machine -/

theorem plicSelect_claimOf (c : Nat) (keep : Bool) (s : State) (d : Nat) : (plicSelect c keep s).plic.claimOf d =
    if d = c then s.plic.choice s.cfg.plicSources c keep else s.plic.claimOf d :=
  Table.get_set 0 s.plic.claim c d _

theorem plicSelect_selected (c : Nat) (keep : Bool) (s : State) :
    Selected s.plic s.cfg.plicSources c keep ((plicSelect c keep s).plic.claimOf c) := by
  rw [plicSelect_claimOf, if_pos rfl]
  exact choice_selected _ _ c keep

theorem plicSelect_claimOf_ne {c d : Nat} (h : d ≠ c) (keep : Bool) (s : State) :
    (plicSelect c keep s).plic.claimOf d = s.plic.claimOf d := by
  rw [plicSelect_claimOf, if_neg h]

end Sys2Proof.Machine

namespace Sys2Proof.Proofs

open Sys2Proof.Machine

/-- Settles O45, by the invariant `Leads` of the selection loop. -/
theorem plicSelection : Obligations.PlicSelection := fun s c keep =>
  ⟨rfl, plicSelect_selected c keep s, fun _ h => plicSelect_claimOf_ne h keep s⟩

end Sys2Proof.Proofs
end

section
/-! PROOFS. The PLIC's pending bits and claims stay among the ids that exist (R951). -/

namespace Sys2Proof.Machine

/-- The predicate is a matter of the configuration, the pending bits and the claims. -/
theorem PlicOk.congr {s t : State} (hi : PlicOk s) (h : t.cfg = s.cfg ∧ t.plic.pending = s.plic.pending ∧
    t.plic.claim = s.plic.claim) : PlicOk t := by
  obtain ⟨hcfg, hpending, hclaim⟩ := h
  refine ⟨fun i => ?_, fun c => ?_⟩
  · rw [Plic.isPending, hpending, hcfg]
    exact hi.pending i
  · rw [Plic.claimOf, hclaim, hcfg]
    exact hi.claim c

theorem PlicOk.select {s : State} (h : PlicOk s) (c : Nat) (keep : Bool) : PlicOk (plicSelect c keep s) where
  pending := h.pending
  claim d := by
    by_cases hd : d = c
    · subst hd
      exact (plicSelect_selected d keep s).lt (h.claim d)
    · rw [plicSelect_claimOf_ne hd]
      exact h.claim d

/-- One pending bit written leaves the others. -/
theorem setPending_isPending (k : Nat) (b : Bool) (s : State) {j : Nat} (hj : j < 1024) :
    (setPending k b s).plic.isPending j = if j = k then b else s.plic.isPending j :=
  getLsbD_setBit s.plic.pending k b j hj

theorem PlicOk.setPending {s : State} (h : PlicOk s) {k : Nat} {b : Bool} (hk : b = true → 1 ≤ k ∧ k < s.cfg.plicSources) :
    PlicOk (setPending k b s) where
  pending i hi := by
    have hlt : i < 1024 := BitVec.lt_of_getLsbD hi
    rw [setPending_isPending k b s hlt] at hi
    split at hi
    · next heq => exact heq ▸ hk hi
    · exact h.pending i hi
  claim := h.claim

/-- The configuration stays, and with it the predicate. -/
abbrev PlicKeeps : State → State → Prop := Keeps (fun _ => True) PlicOk

theorem PlicKeeps.of_eq {s t : State} (h : t.cfg = s.cfg ∧ t.plic = s.plic) : PlicKeeps s t :=
  ⟨h.1, fun _ hi => hi.congr ⟨h.1, by rw [h.2], by rw [h.2]⟩⟩

/-- Of the PLIC's own updates only selections write claims, and only raises and claim reads write pending bits. -/
theorem plicKept_plicOk : PlicKept PlicKeeps where
  refl := Keeps.refl
  trans := Keeps.trans
  tick _ := .of_eq (by simp)
  select _ c keep := ⟨rfl, fun _ hi => hi.select c keep⟩
  line _ _ _ := ⟨rfl, fun _ hi => hi.congr (by simp [setLine])⟩
  pending _ _ _ hk := ⟨rfl, fun _ hi => hi.setPending hk⟩
  enables _ _ _ := ⟨rfl, fun _ hi => hi.congr (by simp [setEnables])⟩
  prio _ _ := ⟨rfl, fun _ hi => hi.congr (by simp)⟩
  threshold _ _ := ⟨rfl, fun _ hi => hi.congr (by simp)⟩
  callbacks _ _ := .of_eq ⟨rfl, rfl⟩

/-- Only accesses to the window, device callbacks and interrupt sources reach the PLIC; every other update has a frame. -/
theorem stepKept_plicOk : StepKept PlicKeeps where
  refl := Keeps.refl
  trans := Keeps.trans
  tick _ := .of_eq (by simp)
  fill _ _ _ _ _ := .of_eq (by simp)
  pte _ _ _ _ _ _ := .of_eq ⟨rfl, rfl⟩
  plic s off n acc data := plicKept_plicOk.access off n acc data s
  device s q := plicKept_plicOk.device (fun _ _ => .of_eq ⟨rfl, rfl⟩) q s
  store _ _ _ _ _ _ := .of_eq ⟨rfl, rfl⟩
  setX _ _ _ := .of_eq (by simp)
  setPc _ _ _ := .of_eq (by simp)
  resv _ _ _ := .of_eq ⟨rfl, rfl⟩
  flush _ := .of_eq (by simp)
  csr _ _ _ _ _ h := .of_eq (by rw [csrAccess_frame h]; simp)
  raise c v s := .of_eq (by rw [raise_frame c v s]; simp)
  xret l s := .of_eq (by rw [requestXret_frame l s]; simp)
  turns _ _ := .of_eq ⟨rfl, rfl⟩
  interrupt i s := .of_eq (by rw [takeInterrupt_frame i s]; simp)
  agent m s := by
    cases m with
    | raiseSource k => exact plicKept_plicOk.raiseSource k s
    | trapUnit m =>
      unfold agentMove
      dsimp only
      split
      · exact .of_eq (by rw [trapUnitStep_frame]; simp)
      · exact Keeps.refl s
    | _ => exact .of_eq ⟨rfl, rfl⟩

end Sys2Proof.Machine

namespace Sys2Proof.Proofs

open Sys2Proof.Machine

/-- Settles O56: a step is made of updates that each keep the ids of the PLIC's state. -/
theorem plicStateIsKept : Obligations.PlicStateIsKept := fun _ _ hi h => (stepKept_plicOk.step h).2 trivial hi

end Sys2Proof.Proofs
end

section
/-! PROOFS. PLIC raises, claims and completes (R958, R959, R962, R963). -/

namespace Sys2Proof.Machine

open Sys2Proof.Spec

/-! ### Lines -/

theorem plicSelect_lineOf (c : Nat) (keep : Bool) (s : State) (d : Nat) :
    (plicSelect c keep s).plic.lineOf d = s.plic.lineOf d := rfl

theorem setLine_lineOf (c : Nat) (b : Bool) (s : State) (d : Nat) :
    (setLine c b s).plic.lineOf d = if d = c then b else s.plic.lineOf d := Table.get_set false s.plic.line c d b

/-- A line drives the bit of ip that its context is mapped to, and no other (R963). -/
theorem setLine_ip (c : Nat) (b : Bool) (s : State) {j : Nat} (hj : j < 64) :
    (setLine c b s).ip.getLsbD j = if (ctxLine s.cfg c).map lineBit = some j then b else s.ip.getLsbD j := by
  unfold setLine
  cases ctxLine s.cfg c with
  | none => rfl
  | some l =>
    refine (getLsbD_setBit s.ip (lineBit l) b j hj).trans (if_congr ?_ rfl rfl)
    rw [Option.map_some, Option.some_inj, eq_comm]

theorem ctxLine_bit_iff (cfg : Config) (c b : Nat) :
    (ctxLine cfg c).map lineBit = some b ↔ ∃ l, ctxLine cfg c = some l ∧ lineBit l = b := Option.map_eq_some_iff

/-! ### A raise -/

/-- What a raise has done when the contexts below `m` have had their turn (R962). -/
structure RaisedBelow (s t : State) (m : Nat) : Prop where
  frame : t = { s with ip := t.ip, plic := { s.plic with claim := t.plic.claim, line := t.plic.line } }
  selected : ∀ c, c < m → Selected s.plic s.cfg.plicSources c true (t.plic.claimOf c)
  line : ∀ c, c < m → t.plic.lineOf c = (s.plic.lineOf c || t.plic.claimOf c != 0)
  others : ∀ c, m ≤ c → t.plic.claimOf c = s.plic.claimOf c ∧ t.plic.lineOf c = s.plic.lineOf c
  ip : ∀ b, b < 64 → (t.ip.getLsbD b = true ↔ s.ip.getLsbD b = true ∨
    ∃ c l, c < m ∧ ctxLine s.cfg c = some l ∧ lineBit l = b ∧ t.plic.claimOf c ≠ 0)

/-- Selection reads the claim of its own context only, and no line. -/
theorem selected_congr {p q : Plic} {c : Nat} (h : q = { p with claim := q.claim, line := q.line })
    (hc : q.claimOf c = p.claimOf c) (n : Nat) (keep : Bool) (b : Nat) : Selected q n c keep b ↔ Selected p n c keep b := by
  rw [Selected, Selected, hc, h]
  rfl

theorem raiseContext_frame_claim_line (s : State) (c : Nat) : raiseContext s c = { s with
    ip := (raiseContext s c).ip
    plic := { s.plic with claim := (raiseContext s c).plic.claim, line := (raiseContext s c).plic.line } } := by
  unfold raiseContext
  dsimp only
  split <;> rfl

theorem raiseContext_claimOf (s : State) (c d : Nat) :
    (raiseContext s c).plic.claimOf d = (plicSelect c true s).plic.claimOf d := by
  unfold raiseContext
  dsimp only
  split <;> rfl

theorem raiseContext_lineOf (s : State) (c d : Nat) : (raiseContext s c).plic.lineOf d =
    (s.plic.lineOf d || (decide (d = c) && (raiseContext s c).plic.claimOf c != 0)) := by
  rw [raiseContext_claimOf]
  unfold raiseContext
  dsimp only
  split
  case isTrue h => simp [h, plicSelect_lineOf]
  case isFalse h =>
    rw [setLine_lineOf, plicSelect_lineOf]
    by_cases hd : d = c <;> simp [hd, h]

theorem raiseContext_ip (s : State) (c : Nat) {j : Nat} (hj : j < 64) : (raiseContext s c).ip.getLsbD j = true ↔
    s.ip.getLsbD j = true ∨ ((raiseContext s c).plic.claimOf c ≠ 0 ∧ ∃ l, ctxLine s.cfg c = some l ∧ lineBit l = j) := by
  rw [raiseContext_claimOf, ← ctxLine_bit_iff]
  unfold raiseContext
  dsimp only
  split
  case isTrue h => simp [h]
  case isFalse h =>
    rw [setLine_ip _ _ _ hj]
    by_cases hm : (ctxLine s.cfg c).map lineBit = some j <;> simp [hm, h]

/-- The turn of one more context. -/
theorem RaisedBelow.raiseContext {s t : State} {m : Nat} (h : RaisedBelow s t m) : RaisedBelow s (raiseContext t m) (m + 1) := by
  have hcfg : t.cfg = s.cfg := by rw [h.frame]
  have hplic : t.plic = { s.plic with claim := t.plic.claim, line := t.plic.line } := by rw [h.frame]
  obtain ⟨hclaim, hline⟩ := h.others m (Nat.le_refl m)
  have hother : ∀ {c}, c ≠ m → (Machine.raiseContext t m).plic.claimOf c = t.plic.claimOf c := fun hc => by
    rw [raiseContext_claimOf, plicSelect_claimOf_ne hc]
  have hotherLine : ∀ {c}, c ≠ m → (Machine.raiseContext t m).plic.lineOf c = t.plic.lineOf c := fun hc => by
    rw [raiseContext_lineOf, decide_eq_false hc, Bool.false_and, Bool.or_false]
  refine ⟨?frame, fun c hc => ?selected, fun c hc => ?line, fun c hc => ?others, fun b hb => ?ip⟩
  case frame =>
    rw [raiseContext_frame_claim_line, h.frame]
  case selected =>
    rcases Nat.lt_succ_iff_lt_or_eq.mp hc with hlt | rfl
    · rw [hother hlt.ne]
      exact h.selected c hlt
    · rw [raiseContext_claimOf, ← selected_congr hplic hclaim, ← hcfg]
      exact plicSelect_selected c true t
  case line =>
    rcases Nat.lt_succ_iff_lt_or_eq.mp hc with hlt | rfl
    · rw [hother hlt.ne, hotherLine hlt.ne]
      exact h.line c hlt
    · rw [raiseContext_lineOf, hline, decide_eq_true rfl, Bool.true_and]
  case others =>
    rw [hother (Nat.ne_of_gt hc), hotherLine (Nat.ne_of_gt hc)]
    exact h.others c (Nat.le_of_succ_le hc)
  case ip =>
    rw [raiseContext_ip t m hb, h.ip b hb, hcfg, or_assoc]
    refine or_congr_right ⟨?_, ?_⟩
    · rintro (⟨c, l, hlt, hl, hlb, hc⟩ | ⟨hc, l, hl, hlb⟩)
      · exact ⟨c, l, Nat.lt_succ_of_lt hlt, hl, hlb, by rwa [hother hlt.ne]⟩
      · exact ⟨m, l, Nat.lt_succ_self m, hl, hlb, hc⟩
    · rintro ⟨c, l, hlt, hl, hlb, hc⟩
      rcases Nat.lt_succ_iff_lt_or_eq.mp hlt with hlt | rfl
      · exact .inl ⟨c, l, hlt, hl, hlb, by rwa [hother hlt.ne] at hc⟩
      · exact .inr ⟨hc, l, hl, hlb⟩

theorem foldl_raiseContext (s : State) (m : Nat) : RaisedBelow s ((List.range m).foldl raiseContext s) m := by
  induction m with
  | zero => exact ⟨rfl, fun c hc => absurd hc (Nat.not_lt_zero c), fun c hc => absurd hc (Nat.not_lt_zero c),
      fun _ _ => ⟨rfl, rfl⟩, fun b _ => by simp⟩
  | succ m ih =>
    rw [List.range_succ, List.foldl_append]
    exact ih.raiseContext

theorem plicRaise_raised {k : Nat} {s : State} (hk : 1 ≤ k) (hn : k < s.cfg.plicSources) :
    ∃ t, plicRaise k s = some t ∧ RaisedBelow (setPending k true s) t s.cfg.plicContexts :=
  ⟨_, if_neg (by omega), foldl_raiseContext _ _⟩

/-! ### Claim and complete -/

/-- A rescan leaves the best candidate (R954). -/
theorem plicSelect_best (c : Nat) (s : State) : Best s.plic s.cfg.plicSources c ((plicSelect c false s).plic.claimOf c) := by
  simpa [Selected] using plicSelect_selected c false s

/-- The claim is answered and no longer pending (R958). -/
def takeClaim (c : Nat) (s : State) : BitVec 32 × State :=
  (BitVec.ofNat 32 (s.plic.claimOf c), if s.plic.claimOf c = 0 then s else setPending (s.plic.claimOf c) false s)

/-- The claim of context `c` is a source that is valid for delivery (R953). -/
def ClaimValid (s : State) (c : Nat) : Prop :=
  s.plic.claimOf c ≠ 0 ∧ (s.plic.enables c).getLsbD (s.plic.claimOf c) = true ∧
    (s.plic.thresholdOf c).toNat < (s.plic.prioOf (s.plic.claimOf c)).toNat

/-- A claim read takes the claim: of the state itself where the claim is valid, else after a rescan (R958). -/
theorem claimRead_takeClaim (s : State) (c : Nat) : ∃ m, claimRead c s = takeClaim c m ∧
    m = { s with plic := { s.plic with claim := m.plic.claim } } ∧
    (ClaimValid s c → m.plic.claimOf c = s.plic.claimOf c) ∧
    (¬ClaimValid s c → Best s.plic s.cfg.plicSources c (m.plic.claimOf c)) ∧
    ∀ d, d ≠ c → m.plic.claimOf d = s.plic.claimOf d := by
  have hiff : (s.plic.claimOf c = 0 || !s.plic.valid c (s.plic.claimOf c)) = false ↔ ClaimValid s c := by
    simp [Plic.valid, ClaimValid, and_assoc]
  by_cases hvalid : ClaimValid s c
  · refine ⟨s, ?_, rfl, fun _ => rfl, fun h => absurd hvalid h, fun _ _ => rfl⟩
    simp [claimRead, takeClaim, hiff.mpr hvalid]
  · refine ⟨plicSelect c false s, ?_, rfl, fun h => absurd h hvalid, fun _ => plicSelect_best c s, fun d hd =>
      plicSelect_claimOf_ne hd false s⟩
    simp [claimRead, takeClaim, Bool.eq_true_of_not_eq_false (mt hiff.mp hvalid)]

theorem takeClaim_frame (c : Nat) (s : State) :
    (takeClaim c s).2 = { s with plic := { s.plic with pending := (takeClaim c s).2.plic.pending } } := by
  unfold takeClaim
  dsimp only
  split <;> rfl

theorem takeClaim_claimOf (c : Nat) (s : State) (d : Nat) : (takeClaim c s).2.plic.claimOf d = s.plic.claimOf d := by
  rw [takeClaim_frame]
  rfl

theorem takeClaim_isPending (c : Nat) (s : State) {j : Nat} (hj : j < 1024) : (takeClaim c s).2.plic.isPending j =
    (s.plic.isPending j && (s.plic.claimOf c == 0 || j != s.plic.claimOf c)) := by
  unfold takeClaim
  dsimp only
  split
  case isTrue h => simp [h]
  case isFalse h =>
    rw [setPending_isPending _ _ _ hj]
    by_cases hd : j = s.plic.claimOf c <;> simp [hd, h]

/-- A complete write rescans, and drives the line with whether something is selected (R959). -/
theorem plicWrite_claim (c : Nat) (data : BitVec 32) (s : State) : plicWrite (.claim c) data s =
    setLine c ((plicSelect c false s).plic.claimOf c != 0) (plicSelect c false s) :=
  congrArg (fun b => setLine c b (plicSelect c false s)) (Bool.eq_iff_iff.mpr (by simp))

end Sys2Proof.Machine

namespace Sys2Proof.Proofs

open Sys2Proof.Machine Sys2Proof.Spec

/-- Settles O46: the source is marked, then the contexts have their turns one after the other. -/
theorem plicRaise : Obligations.PlicRaise := by
  intro s k
  refine ⟨fun hk => if_pos hk, fun hk hn hk1024 => ?_⟩
  obtain ⟨t, hraise, hframe, hselected, hline, hothers, hip⟩ := plicRaise_raised hk hn
  have hpending : t.plic.pending = (setPending k true s).plic.pending := by rw [hframe]
  refine ⟨t, hraise, ?frame, fun j hj => ?pending, fun c hc => ⟨?selected, hline c hc⟩, hothers, hip⟩
  case frame =>
    rw [hframe]
    rfl
  case pending =>
    rw [Plic.isPending, hpending]
    refine (setPending_isPending k true s hj).trans ?_
    by_cases hjk : j = k <;> simp [hjk]
  case selected =>
    rw [hpending]
    exact hselected c hc

/-- Settles O47: a claim read takes the claim, after a rescan where the claim is not valid; a complete write rescans and drives the
line. -/
theorem plicClaimAndComplete : Obligations.PlicClaimAndComplete := by
  intro s c
  constructor
  · obtain ⟨m, hread, hframe, hvalid, hrescan, hothers⟩ := claimRead_takeClaim s c
    have hpending : ∀ j, m.plic.isPending j = s.plic.isPending j := fun j => by rw [hframe]; rfl
    simp only [hread, takeClaim_claimOf]
    refine ⟨?frame, rfl, hvalid, hrescan, hothers, fun j hj => ?pending⟩
    case frame => rw [takeClaim_frame, hframe]
    case pending => rw [takeClaim_isPending c m hj, hpending]
  · intro data
    rw [plicWrite_claim]
    refine ⟨rfl, plicSelect_best c s, fun d hd => ⟨plicSelect_claimOf_ne hd false s, ?_⟩, ?_, fun b hb => ?_⟩
    · exact (setLine_lineOf c _ _ d).trans (if_neg hd)
    · exact (setLine_lineOf c _ _ c).trans (if_pos rfl)
    · exact setLine_ip c _ (plicSelect c false s) hb

end Sys2Proof.Proofs
end

section
/-! PROOFS. The PLIC's register window (R955, R956, R960, R961, R1021): where its registers are, the accesses it accepts, and its
bitmaps word by word. -/

namespace Sys2Proof.Machine

/-! ### The registers by their offsets (R955) -/

/-- What R21 asks of the PLIC's sizes: the pending words end below the enable words, and these below the thresholds. -/
theorem wf_plicSizes {c : Config} (h : c.wf = true) : c.plicSources ≤ 1024 ∧ 0x2000 + 0x80 * c.plicContexts ≤ 0x200000 := by
  simp only [Config.wf, Bool.and_eq_true, decide_eq_true_eq] at h
  omega

/-- A word of a bitmap exists where its first id does. -/
theorem lt_plicWords_iff (c : Config) (w : Nat) : w < plicWords c ↔ 32 * w < c.plicSources := by
  rw [plicWords]
  omega

theorem plicRegAt_priority {c : Config} {k : Nat} (hk : k < c.plicSources) : plicRegAt c (4 * k) = some (.priority k) := by
  rw [plicRegAt, if_pos (by omega), Nat.mul_div_cancel_left k (by decide)]

section
variable {c : Config} (h : c.wf = true)
include h

theorem plicRegAt_pending {w : Nat} (hw : 32 * w < c.plicSources) : plicRegAt c (0x1000 + 4 * w) = some (.pending w) := by
  obtain ⟨hsources, -⟩ := wf_plicSizes h
  have hword := (lt_plicWords_iff c w).mpr hw
  rw [plicRegAt, if_neg (by omega), if_pos (by omega), Nat.add_sub_cancel_left, Nat.mul_div_cancel_left w (by decide)]

theorem plicRegAt_enable {x w : Nat} (hx : x < c.plicContexts) (hw : 32 * w < c.plicSources) :
    plicRegAt c (0x2000 + 0x80 * x + 4 * w) = some (.enable x w) := by
  obtain ⟨hsources, hcontexts⟩ := wf_plicSizes h
  have hctx : (0x2000 + 0x80 * x + 4 * w - 0x2000) / 0x80 = x := by omega
  have hword : (0x2000 + 0x80 * x + 4 * w - 0x2000) % 0x80 / 4 = w := by omega
  rw [plicRegAt, if_neg (by omega), if_neg (by rw [plicWords]; omega), if_pos (by omega), hctx, hword]
  exact if_pos ⟨hx, (lt_plicWords_iff c w).mpr hw⟩

/-- The threshold and the claim register of a context are the first two words of its page. -/
theorem plicRegAt_context {x r : Nat} (hx : x < c.plicContexts) (hr : r < 0x1000) : plicRegAt c (0x200000 + 0x1000 * x + r) =
    if r = 0 then some (.threshold x) else if r = 4 then some (.claim x) else none := by
  obtain ⟨hsources, -⟩ := wf_plicSizes h
  have hctx : (0x200000 + 0x1000 * x + r - 0x200000) / 0x1000 = x := by omega
  have hreg : (0x200000 + 0x1000 * x + r - 0x200000) % 0x1000 = r := by omega
  rw [plicRegAt, if_neg (by omega), if_neg (by rw [plicWords]; omega), if_neg (by omega), if_pos (by omega), hctx, hreg]
  exact if_pos hx

end

/-- The place of each register that a configuration has (R955). -/
def PlicReg.At (c : Config) (off : Nat) : PlicReg → Prop
  | .priority k => k < c.plicSources ∧ off = 4 * k
  | .pending w => 32 * w < c.plicSources ∧ off = 0x1000 + 4 * w
  | .enable x w => x < c.plicContexts ∧ 32 * w < c.plicSources ∧ off = 0x2000 + 0x80 * x + 4 * w
  | .threshold x => x < c.plicContexts ∧ off = 0x200000 + 0x1000 * x
  | .claim x => x < c.plicContexts ∧ off = 0x200000 + 0x1000 * x + 4

/-- An offset that has a register is the register's own. -/
theorem at_of_plicRegAt {c : Config} {off : Nat} {r : PlicReg} (hoff : off % 4 = 0) (h : plicRegAt c off = some r) : r.At c off := by
  unfold plicRegAt at h
  split at h
  · cases h
    exact ⟨by omega, by omega⟩
  split at h
  · cases h
    exact ⟨by rw [← lt_plicWords_iff]; omega, by omega⟩
  split at h
  · dsimp only at h
    split at h
    · next hin =>
      cases h
      exact ⟨hin.1, (lt_plicWords_iff c _).mp hin.2, by omega⟩
    · cases h
  split at h
  · dsimp only at h
    split at h
    · next hin =>
      split at h
      · cases h
        exact ⟨hin, by omega⟩
      split at h
      · cases h
        exact ⟨hin, by omega⟩
      · cases h
    · cases h
  · cases h

theorem plicRegAt_iff {c : Config} (h : c.wf = true) {off : Nat} (hoff : off % 4 = 0) (r : PlicReg) :
    plicRegAt c off = some r ↔ r.At c off := by
  refine ⟨at_of_plicRegAt hoff, fun hr => ?_⟩
  cases r with
  | priority k =>
    obtain ⟨hk, rfl⟩ := hr
    exact plicRegAt_priority hk
  | pending w =>
    obtain ⟨hw, rfl⟩ := hr
    exact plicRegAt_pending h hw
  | enable x w =>
    obtain ⟨hx, hw, rfl⟩ := hr
    exact plicRegAt_enable h hx hw
  | threshold x =>
    obtain ⟨hx, rfl⟩ := hr
    exact plicRegAt_context h hx (r := 0) (by decide)
  | claim x =>
    obtain ⟨hx, rfl⟩ := hr
    exact plicRegAt_context h hx (r := 4) (by decide)

/-! ### Accepted and rejected accesses -/

theorem plicAccepts_eq_false_iff (c : Config) (acc : Access) (r : PlicReg) :
    plicAccepts c acc r = false ↔ acc = .write ∧ c.plicPrioWritable = false ∧ ∃ k, r = .priority k := by
  cases r <;> cases acc <;> simp [plicAccepts]

/-- An access is rejected where no register is, and where it writes a priority that is not writable (R955, R956). -/
theorem plicTarget_eq_none_iff (c : Config) (acc : Access) (off : Nat) : plicTarget c acc off = none ↔ plicRegAt c off = none ∨
    (acc = .write ∧ c.plicPrioWritable = false ∧ ∃ k, plicRegAt c off = some (.priority k)) := by
  rw [plicTarget]
  cases plicRegAt c off with
  | none => simp
  | some r => simp [plicAccepts_eq_false_iff]

theorem plicAccess_of_rejected {s : State} {off n : Nat} {acc : Access} (h : acc = .exec ∨ off % 4 ≠ 0 ∨ (n ≠ 4 ∧ n ≠ 8) ∨
    plicTarget s.cfg acc off = none ∨ (n = 8 ∧ plicTarget s.cfg acc (off + 4) = none)) (data : Word) :
    plicAccess off n acc data s = (none, s) := by
  unfold plicAccess
  rcases h with h | h | ⟨h4, h8⟩ | h | ⟨rfl, h⟩
  · rw [if_pos (.inl h)]
  · rw [if_pos (.inr h)]
  · rw [if_neg h4, if_neg h8, ite_self]
  · simp [h]
  · simp only [h]
    cases plicTarget s.cfg acc off <;> simp

section
variable {s : State} {off : Nat} {acc : Access} {r : PlicReg} (hacc : acc ≠ .exec) (hoff : off % 4 = 0)
  (hr : plicTarget s.cfg acc off = some r) (data : Word)
include hacc hoff hr

theorem plicAccess_four : plicAccess off 4 acc data s =
    (some (zext (plicRegAccess acc r (low 32 data) s).1), (plicRegAccess acc r (low 32 data) s).2) := by
  simp [plicAccess, hacc, hoff, hr]

/-- The low half is accessed first (R955). -/
theorem plicAccess_eight {q : PlicReg} (hq : plicTarget s.cfg acc (off + 4) = some q) : plicAccess off 8 acc data s =
    let a := plicRegAccess acc r (low 32 data) s
    let b := plicRegAccess acc q (low 32 (data >>> 32)) a.2
    (some (b.1 ++ a.1), b.2) := by
  simp [plicAccess, hacc, hoff, hr, hq]

end

/-- A written register leaves what its write and the callbacks in it leave, whatever the access answers (R1021). -/
theorem plicRegAccess_write (r : PlicReg) (data : BitVec 32) (s : State) :
    (plicRegAccess .write r data s).2 = (withCallbacks (fun s => ((), plicWrite r data s)) s).2 := by
  unfold plicRegAccess withCallbacks
  cases s.callbacks <;> rfl

theorem low_ushiftRight_32 (v : Word) : low 32 (v >>> 32) = v.extractLsb' 32 32 := by
  rw [low, BitVec.extractLsb', BitVec.toNat_eq, BitVec.toNat_setWidth, BitVec.toNat_ushiftRight, BitVec.toNat_ofNat]

theorem withCallbacks_cons {α : Type} (f : State → α × State) {s : State} {c : Callbacks} {rest : List Callbacks}
    (h : s.callbacks = c :: rest) : withCallbacks f s = ((f (raiseAll c.before { s with callbacks := rest })).1,
      raiseAll c.after (f (raiseAll c.before { s with callbacks := rest })).2) := by
  rw [withCallbacks, h]

/-! ### Bitmaps word by word -/

theorem getLsbD_idMask (n j : Nat) : (idMask n).getLsbD j = (decide (j < 1024) && decide (j < n)) := by
  rw [idMask, BitVec.getLsbD_ofNat, Nat.testBit_two_pow_sub_one]

/-- Bit `j` of a word is its id's bit, 0 for an id that does not exist (R955). -/
theorem getLsbD_bitmapWord {n : Nat} (v : BitVec 1024) {w j : Nat} (hj : j < 32) :
    (bitmapWord n v w).getLsbD j = (decide (32 * w + j < n) && v.getLsbD (32 * w + j)) := by
  rw [bitmapWord, BitVec.getLsbD_extractLsb', BitVec.getLsbD_and, getLsbD_idMask]
  by_cases h : 32 * w + j < 1024
  · simp [hj, h, Bool.and_comm]
  · simp [BitVec.getLsbD_of_ge v _ (Nat.le_of_not_lt h)]

/-- A word written changes the bits of its own ids that exist (R960). -/
theorem getLsbD_setBitmapWord (n : Nat) (v : BitVec 1024) (w : Nat) (data : BitVec 32) {j : Nat} (hj : j < 1024) :
    (setBitmapWord n v w data).getLsbD j = if j / 32 = w ∧ j < n then data.getLsbD (j % 32) else v.getLsbD j := by
  simp only [setBitmapWord, BitVec.getLsbD_or, BitVec.getLsbD_and, BitVec.getLsbD_not, BitVec.getLsbD_shiftLeft,
    BitVec.getLsbD_setWidth, BitVec.getLsbD_allOnes, getLsbD_idMask, hj]
  by_cases hn : j < n
  · by_cases hw : j / 32 = w
    · have hlo : ¬ j < 32 * w := by omega
      have hsub : j - 32 * w = j % 32 := by omega
      have hlt : j % 32 < 32 := Nat.mod_lt _ (by decide)
      have hlt1024 : j % 32 < 1024 := by omega
      simp [hn, hw, hlo, hsub, hlt, hlt1024]
    · have hout : j < 32 * w ∨ 32 ≤ j - 32 * w := by omega
      rcases hout with hlo | hhi
      · simp [hw, hlo]
      · simp [hw, Nat.not_lt.mpr hhi, BitVec.getLsbD_of_ge data _ hhi]
  · simp [hn]

/-! ### Single registers -/

theorem prioOf_set (p : Plic) {k : Nat} (hk : k ≠ 0) (v : BitVec 32) (j : Nat) :
    Plic.prioOf { p with prio := Table.set 0 p.prio k v } j = if j = k then v else p.prioOf j := by
  rw [Plic.prioOf, Plic.prioOf, Table.get_set]
  split
  case isTrue h0 => rw [if_neg fun hj => hk (hj.symm.trans h0)]
  case isFalse => rfl

theorem plicWrite_priority {k : Nat} (hk : k ≠ 0) (data : BitVec 32) (s : State) :
    plicWrite (.priority k) data s = { s with plic := { s.plic with prio := Table.set 0 s.plic.prio k data } } := if_neg hk

/-- An enable word reads as its bitmap's, but for bit 0 of word 0, which is free (R955). -/
theorem plicRead_enable (c w : Nat) (s : State) : ∃ v k, plicRead (.enable c w) s = (v, { s with free := k }) ∧
    ∀ j, j < 32 → 32 * w + j ≠ 0 → v.getLsbD j = (bitmapWord s.cfg.plicSources (s.plic.enables c) w).getLsbD j := by
  by_cases hw : w = 0
  · refine ⟨_, _, if_pos hw, fun j hj h0 => ?_⟩
    rw [getLsbD_setBit _ _ _ _ hj, if_neg (by omega)]
  · exact ⟨_, _, if_neg hw, fun _ _ _ => rfl⟩

/-- An enable word is stored in its context's bitmap, but for bit 0 of word 0, which is free (R960). -/
theorem plicWrite_enable (c w : Nat) (data : BitVec 32) (s : State) :
    ∃ v k, plicWrite (.enable c w) data s = { setEnables c v s with free := k } ∧ ∀ j, 1 ≤ j → j < 1024 →
      v.getLsbD j = (setBitmapWord s.cfg.plicSources (s.plic.enables c) w data).getLsbD j := by
  by_cases hw : w = 0
  · refine ⟨_, _, if_pos hw, fun j h1 hj => ?_⟩
    rw [getLsbD_setBit _ _ _ _ hj, if_neg (by omega)]
  · exact ⟨_, _, if_neg hw, fun _ _ _ => rfl⟩

theorem setEnables_enables (c : Nat) (v : BitVec 1024) (s : State) (d : Nat) :
    (setEnables c v s).plic.enables d = if d = c then v else s.plic.enables d := Table.get_set 0 s.plic.enable c d v

end Sys2Proof.Machine

namespace Sys2Proof.Proofs

open Sys2Proof.Machine Sys2Proof.Spec

/-- Settles O48: the registers from both sides, and an accepted access as one register access or two. -/
theorem plicWindowAccess : Obligations.PlicWindowAccess := by
  refine ⟨fun c off r h hoff => ?registers, fun s off n acc data => ⟨fun h => plicAccess_of_rejected h data,
    plicTarget_eq_none_iff s.cfg acc off, fun r hacc hoff hr => ?four, fun r q hacc hoff hr hq => ?eight⟩, fun s f =>
    ⟨withCallbacks_nil f, fun c rest h => withCallbacks_cons f h⟩⟩
  case registers =>
    rw [plicRegAt_iff h hoff]
    cases r <;> simp [PlicReg.At]
  case four =>
    refine ⟨_, _, plicAccess_four hacc hoff hr data, ?_, ?_⟩
    · rintro rfl
      exact ⟨rfl, rfl⟩
    · rintro rfl
      exact plicRegAccess_write r _ s
  case eight =>
    refine ⟨_, _, plicAccess_eight hacc hoff hr data hq, ?_, ?_⟩
    · rintro rfl
      exact ⟨rfl, rfl⟩
    · rintro rfl
      rw [plicRegAccess_write, plicRegAccess_write, low_ushiftRight_32]
      rfl

/-- Settles O49: each register's read and write by its own equation, the bitmaps bit by bit. -/
theorem plicRegisters : Obligations.PlicRegisters := by
  intro s c w k data _ _ n
  refine ⟨fun hro => ?priorityRejected, rfl, rfl, ?priority, rfl, ⟨rfl, fun j hj => getLsbD_bitmapWord _ hj⟩, rfl,
    ?enableRead, ?enableWrite, rfl, ?threshold⟩
  case priorityRejected =>
    refine (Nat.lt_or_ge k n).imp_left fun hk => ?_
    exact (plicTarget_eq_none_iff _ _ _).mpr (.inr ⟨rfl, hro, k, plicRegAt_priority hk⟩)
  case priority =>
    rintro t hk rfl
    rw [plicWrite_priority hk]
    exact ⟨rfl, (prioOf_set _ hk data k).trans (if_pos rfl), fun j hj => (prioOf_set _ hk data j).trans (if_neg hj)⟩
  case enableRead =>
    obtain ⟨v, free, hread, hbits⟩ := plicRead_enable c w s
    rw [hread]
    exact ⟨rfl, fun j hj h0 => (hbits j hj h0).trans (getLsbD_bitmapWord _ hj)⟩
  case enableWrite =>
    rintro t rfl
    obtain ⟨v, free, hwrite, hbits⟩ := plicWrite_enable c w data s
    rw [hwrite]
    refine ⟨rfl, fun d hd => (setEnables_enables c v s d).trans (if_neg hd), fun j h1 hj => ?_⟩
    have hself : (setEnables c v s).plic.enables c = v := (setEnables_enables c v s c).trans (if_pos rfl)
    exact (congrArg (BitVec.getLsbD · j) hself).trans ((hbits j h1 hj).trans (getLsbD_setBitmapWord n _ w data hj))
  case threshold =>
    rintro t rfl
    exact ⟨rfl, Table.get_set_self _ _ _ _, fun d hd => Table.get_set_ne _ _ _ hd⟩

end Sys2Proof.Proofs
end

section
/-! PROOFS. Interrupts at an instruction boundary (R922, R940, R941): the order of selection, and the entry. -/

namespace Sys2Proof.Machine

open Sys2Proof.Spec

/-! ### Selection (R941) -/

/-- The interrupts that could be taken, in the order of selection. -/
def readyInterrupts (s : State) : List Nat := irqOrder.filter fun i => irqPending s i && irqEnabled s i

theorem selectInterrupt_eq (s : State) :
    selectInterrupt s = ((readyInterrupts s).find? (irqMLevel s)).or (readyInterrupts s).head? := rfl

theorem irqEnabled_iff (s : State) (i : Nat) : irqEnabled s i = true ↔
    if (s.csrAt kMideleg).getLsbD i = false then s.priv ≠ .machine ∨ s.mstatusBit 3 = true
    else s.priv = .user ∨ (s.priv = .supervisor ∧ s.mstatusBit 1 = true) := by
  unfold irqEnabled irqMLevel
  cases (s.csrAt kMideleg).getLsbD i <;> simp [bMie, bSie]

theorem mem_readyInterrupts (s : State) (i : Nat) : i ∈ readyInterrupts s ↔ IrqReady s i := by
  rw [readyInterrupts, List.mem_filter, Bool.and_eq_true, irqEnabled_iff, irqPending, BitVec.getLsbD_and, Bool.and_eq_true,
    IrqReady, irqOrder, and_assoc]

theorem readyInterrupts_pairwise (s : State) : (readyInterrupts s).Pairwise fun i j => irqRank i < irqRank j :=
  List.Pairwise.filter _ (by decide)

/-- Of a list in order `r`, its first element with `p`, or else its first: before it there are none of its own kind, nor any with `p`
before one without. -/
theorem first_of_find_or_head {l : List Nat} {p : Nat → Bool} {r : Nat → Nat → Prop} (hl : l.Pairwise r) {i : Nat}
    (h : (l.find? p).or l.head? = some i) :
    i ∈ l ∧ ∀ j ∈ l, j = i ∨ (p i = true ∧ p j = false) ∨ (p i = p j ∧ r i j) := by
  cases hfind : l.find? p with
  | some k =>
    rw [hfind] at h
    obtain rfl : k = i := by simpa using h
    obtain ⟨hp, before, after, rfl, hbefore⟩ := List.find?_eq_some_iff_append.mp hfind
    have hafter := (List.pairwise_cons.mp (List.pairwise_append.mp hl).2.1).1
    refine ⟨by simp, fun j hj => ?_⟩
    rcases List.mem_append.mp hj with hj | hj
    · exact .inr (.inl ⟨hp, by simpa using hbefore j hj⟩)
    rcases List.mem_cons.mp hj with rfl | hj
    · exact .inl rfl
    cases hpj : p j with
    | false => exact .inr (.inl ⟨hp, rfl⟩)
    | true => exact .inr (.inr ⟨hp, hafter j hj⟩)
  | none =>
    rw [hfind] at h
    have hnone : ∀ j ∈ l, p j = false := by simpa using List.find?_eq_none.mp hfind
    obtain ⟨after, rfl⟩ : ∃ after, l = i :: after := List.head?_eq_some_iff.mp h
    refine ⟨by simp, fun j hj => ?_⟩
    rcases List.mem_cons.mp hj with rfl | hj'
    · exact .inl rfl
    · exact .inr (.inr ⟨by rw [hnone i (by simp), hnone j hj], (List.pairwise_cons.mp hl).1 j hj'⟩)

theorem selectInterrupt_first {s : State} {i : Nat} (h : selectInterrupt s = some i) : IrqReady s i ∧
    ∀ j, IrqReady s j → j = i ∨
      ((s.csrAt kMideleg).getLsbD i = false ∧ (s.csrAt kMideleg).getLsbD j = true) ∨
      ((s.csrAt kMideleg).getLsbD i = (s.csrAt kMideleg).getLsbD j ∧ irqRank i < irqRank j) := by
  obtain ⟨hmem, hfirst⟩ := first_of_find_or_head (readyInterrupts_pairwise s) h
  refine ⟨(mem_readyInterrupts s i).mp hmem, fun j hj => ?_⟩
  simpa [irqMLevel] using hfirst j ((mem_readyInterrupts s j).mpr hj)

theorem selectInterrupt_none {s : State} (h : selectInterrupt s = none) (j : Nat) : ¬IrqReady s j := by
  rw [selectInterrupt_eq, Option.or_eq_none_iff, List.head?_eq_none_iff] at h
  rw [← mem_readyInterrupts, h.2]
  exact List.not_mem_nil

/-- In M-mode only an interrupt of M-level is ready. -/
theorem not_delegated_of_ready {s : State} {i : Nat} (h : IrqReady s i) (hp : s.priv = .machine) :
    (s.csrAt kMideleg).getLsbD i = false := by
  obtain ⟨-, -, -, hadmits⟩ := h
  by_contra hd
  simp [hd, hp] at hadmits

/-! ### The entry (R922) -/

theorem trapTarget_some (tvec : Word) (i : Nat) : trapTarget tvec (some i) = irqTarget tvec i := by
  have hbase : tvec &&& ~~~3#64 = tvecBase tvec := trapTarget_none tvec
  have hmode : tvec.extractLsb' 0 2 = 1#2 ↔ tvec.toNat % 4 = 1 := by
    rw [BitVec.toNat_eq, BitVec.extractLsb'_toNat]
    rfl
  simp only [trapTarget, irqTarget, hbase, hmode]

/-- The cause of an interrupt is its number with the top bit set. -/
theorem interruptCause {i : Nat} (h : i ∈ irqOrder) (x : Xlen) :
    (1#64 <<< (x.bits - 1)) ||| BitVec.ofNat 64 i = BitVec.ofNat 64 (2 ^ (x.bits - 1) + i) := by
  revert i
  cases x <;> decide

theorem takeInterrupt_enters {i : Nat} (h : i ∈ irqOrder) (s : State) : EntersInterrupt s (takeInterrupt i s) i := by
  unfold EntersInterrupt takeInterrupt
  simp only [← trapTarget_some, interruptCause h]
  split
  · exact enterS_entersS _ 0 (some i) s
  · exact enterM_entersM _ 0 (some i) s

end Sys2Proof.Machine

namespace Sys2Proof.Proofs

open Sys2Proof.Machine Sys2Proof.Spec

/-- Settles O9: the selected interrupt is the first M-level one of the ready interrupts in their order, or else the first. -/
theorem interruptSelectionOrder : Obligations.InterruptSelectionOrder := fun _ =>
  ⟨fun _ => selectInterrupt_first, selectInterrupt_none, fun _ hp h => not_delegated_of_ready (selectInterrupt_first h).1 hp⟩

/-- Settles O8: the turn of a running hart is the entry of the interrupt at the boundary, or one instruction. -/
theorem interruptsAreTakenAtBoundaries : Obligations.InterruptsAreTakenAtBoundaries := by
  intro s hw hr ht
  have hboundary : s.cfg.trapUnit = .reference → boundaryInterrupt s = selectInterrupt s := fun hu => by rw [boundaryInterrupt, hu]
  refine ⟨fun i hu hi => ⟨takeInterrupt i s, ?_, takeInterrupt_enters (selectInterrupt_first hi).1.1 s⟩,
    fun hu hn => step_runs hw hr ht ((hboundary hu).trans hn), fun hu => step_runs hw hr ht (by rw [boundaryInterrupt, hu])⟩
  simp [step, hw, ht, hr, hartTurn, hboundary hu, hi]

end Sys2Proof.Proofs
end

section
/-! PROOFS. Raises (R901, R910, R911, R921-R924), and MRET and SRET (R702, R703, R930-R932). -/

namespace Sys2Proof.Machine

open Sys2Proof.Spec

theorem bits_mret : Instr.mret.bits = 0x30200073 := rfl

theorem bits_sret : Instr.sret.bits = 0x10200073 := rfl

/-- Clearing bit 0 of a saved pc (R931, R932). -/
theorem clear1_eq (v : Word) : v &&& ~~~1#64 = BitVec.ofNat 64 (v.toNat / 2 * 2) := by
  rw [BitVec.toNat_eq, clear1_toNat, BitVec.toNat_ofNat]
  omega

/-! ### The return -/

theorem requestXret_reference {s : State} (h : s.cfg.trapUnit = .reference) :
    requestXret .m s = returnM s ∧ requestXret .s s = returnS s := by
  simp [requestXret, h]

/-- The return to privilege `p` and `pc`, with `ms` written to mstatus: what MRET and SRET share. -/
def returnTo (p : Priv) (ms pc : Word) (s : State) : State :=
  { ((s.setCsr kMstatus ms).setPriv p).setPc pc with runState := .running }

theorem returnTo_frame (p : Priv) (ms pc : Word) (s : State) : TrapFrame s (returnTo p ms pc s) := ⟨rfl, rfl, rfl, rfl⟩

theorem returnTo_otherCsrs (p : Priv) (ms pc : Word) (s : State) : OtherCsrs s (returnTo p ms pc s) [kMstatus] := fun k hk =>
  (State.csrAt_setCsr s kMstatus k ms).trans (if_neg (by simpa using hk))

theorem returnTo_mstatusBit (p : Priv) (ms pc : Word) (s : State) {j : Nat} (hj : j < s.cfg.xlen.bits) :
    (returnTo p ms pc s).mstatusBit j = ms.getLsbD j := by
  have hms : (returnTo p ms pc s).csrAt kMstatus = s.cfg.xlen.trunc ms := State.csrAt_setCsr_self s kMstatus ms
  rw [State.mstatusBit, hms, Xlen.trunc_getLsbD, decide_eq_true hj, Bool.true_and]

/-! ### MRET -/

/-- The mode that MPP names, by its two bits (R36, R131). -/
theorem ofCode_mpp (s : State) : Priv.ofCode (field (s.csrAt kMstatus) bMpp 2) =
    if s.mstatusBit 12 then (if s.mstatusBit 11 then some .machine else none)
    else if s.mstatusBit 11 then some .supervisor else some .user := by
  have h : ∀ e : BitVec 2, Priv.ofCode e.toNat = if e.getLsbD 1 then (if e.getLsbD 0 then some .machine else none)
      else if e.getLsbD 0 then some .supervisor else some .user := by decide
  have bit : ∀ k < 2, ((s.csrAt kMstatus).extractLsb' bMpp 2).getLsbD k = s.mstatusBit (11 + k) := fun k hk => by
    rw [BitVec.getLsbD_extractLsb', decide_eq_true hk, Bool.true_and]
    rfl
  rw [field, h, bit 0 (by decide), bit 1 (by decide)]

/-- mstatus after MRET (R931). -/
def mretStatus (ms : Word) : Word := setField (setBit (setBit ms bMie (ms.getLsbD bMpie)) bMpie true) bMpp 0#2

theorem getLsbD_mretStatus (ms : Word) {j : Nat} (hj : j < 64) : (mretStatus ms).getLsbD j =
    if j = 3 then ms.getLsbD 7 else if j = 7 then true else if j = 11 ∨ j = 12 then false else ms.getLsbD j := by
  rw [mretStatus, getLsbD_setField _ _ _ _ hj, getLsbD_setBit _ _ _ _ hj, getLsbD_setBit _ _ _ _ hj]
  simp only [bMie, bMpie, bMpp, BitVec.getLsbD_zero]
  grind

theorem returnM_of_mpp {s : State} {p : Priv} (h : Priv.ofCode (field (s.csrAt kMstatus) bMpp 2) = some p) :
    returnM s = returnTo p (mretStatus (s.csrAt kMstatus)) (s.csrAt kMepc &&& ~~~1#64) s := by
  simp only [returnM, h]
  rfl

theorem returnM_of_reserved {s : State} (h : Priv.ofCode (field (s.csrAt kMstatus) bMpp 2) = none) :
    returnM s = takeException .illegalInstruction 0x30200073 s := by
  simp only [returnM, h]

/-! ### SRET -/

/-- mstatus after SRET (R932). -/
def sretStatus (ms : Word) : Word := setBit (setBit (setBit ms bSie (ms.getLsbD bSpie)) bSpie true) bSpp false

theorem getLsbD_sretStatus (ms : Word) {j : Nat} (hj : j < 64) : (sretStatus ms).getLsbD j =
    if j = 1 then ms.getLsbD 5 else if j = 5 then true else if j = 8 then false else ms.getLsbD j := by
  rw [sretStatus, getLsbD_setBit _ _ _ _ hj, getLsbD_setBit _ _ _ _ hj, getLsbD_setBit _ _ _ _ hj]
  simp only [bSie, bSpie, bSpp]
  grind

theorem returnS_eq (s : State) : returnS s = returnTo (if s.mstatusBit 8 then .supervisor else .user)
    (sretStatus (s.csrAt kMstatus)) (s.csrAt kSepc &&& ~~~1#64) s := rfl

end Sys2Proof.Machine

namespace Sys2Proof.Proofs

open Sys2Proof.Machine Sys2Proof.Spec

/-- Settles O38: a raise for either trap unit, and the number of each cause. -/
theorem faultReportAndExceptionEntry : Obligations.FaultReportAndExceptionEntry :=
  ⟨fun s c tval => raise_raises c tval s, fun c => by cases c with
    | accessFault acc => cases acc <;> rfl
    | ecall p => cases p <;> rfl
    | pageFault acc => cases acc <;> rfl
    | _ => rfl⟩

/-- Settles O39: below its mode an xRET is illegal; in its mode the reference trap unit returns to the mode that MPP or SPP names. -/
theorem trapReturns : Obligations.TrapReturns := by
  intro s
  refine ⟨fun hp => ?mretBelow, fun hp hu => ?mretExternal, fun hp hu h12 h11 => ?mretReserved, fun hp hu hmpp => ?mret,
    fun hp => ?sretBelow, fun hp hu => ?sretExternal, fun hp hu => ?sret⟩
  case mretBelow => exact execRaises_of_illegal ((exec_mret s).trans (if_neg hp)) bits_mret
  case mretExternal => rw [exec_mret, if_pos hp, requestXret_external hu]
  case mretReserved =>
    refine ⟨_, (exec_mret s).trans (if_pos hp), ?_⟩
    rw [(requestXret_reference hu).1, returnM_of_reserved (by simp [ofCode_mpp, h12, h11])]
    exact takeException_enters .illegalInstruction 0x30200073 s
  case mret =>
    have hmode : Priv.ofCode (field (s.csrAt kMstatus) bMpp 2) =
        some (if s.mstatusBit 12 then .machine else if s.mstatusBit 11 then .supervisor else .user) := by
      rw [ofCode_mpp]
      grind
    refine ⟨_, (exec_mret s).trans (if_pos hp), ?_⟩
    rw [(requestXret_reference hu).1, returnM_of_mpp hmode, clear1_eq]
    refine ⟨returnTo_frame _ _ _ s, returnTo_otherCsrs _ _ _ s, rfl, rfl, fun j hj => ?_⟩
    rw [returnTo_mstatusBit _ _ _ _ hj]
    exact getLsbD_mretStatus _ (Nat.lt_of_lt_of_le hj s.cfg.xlen.bits_le)
  case sretBelow => exact execRaises_of_illegal ((exec_sret s).trans (if_pos hp)) bits_sret
  case sretExternal => rw [exec_sret, if_neg hp, requestXret_external hu]
  case sret =>
    refine ⟨_, (exec_sret s).trans (if_neg hp), ?_⟩
    rw [(requestXret_reference hu).2, returnS_eq, clear1_eq]
    refine ⟨returnTo_frame _ _ _ s, returnTo_otherCsrs _ _ _ s, rfl, rfl, fun j hj => ?_⟩
    rw [returnTo_mstatusBit _ _ _ _ hj]
    exact getLsbD_sretStatus _ (Nat.lt_of_lt_of_le hj s.cfg.xlen.bits_le)

end Sys2Proof.Proofs
end

section
/-! PROOFS. The compressed register instructions, jumps and branches (47_compressed.md): each is its expansion, with length 2. -/

namespace Sys2Proof.Machine

open Sys2Proof.Spec

variable {s : State} {f : BinOp} {op : Nat → Nat → Int}

/-! ### Immediates -/

theorem trunc_imm16sp (s : State) (imm : BitVec 6) : s.cfg.xlen.trunc (imm16sp s.cfg.xlen imm) = asWord s (imm.toInt * 16) := by
  rw [imm16sp, trunc_sext_asWord, append_zero_toInt (by decide)]
  rfl

theorem trunc_immCLui (s : State) (imm : BitVec 6) : s.cfg.xlen.trunc (immCLui s.cfg.xlen imm) = asWord s (imm.toInt * 4096) := by
  rw [immCLui, trunc_sext_asWord, append_zero_toInt (by decide)]
  rfl

/-- The unsigned reading of a register is its value (R31). -/
theorem trunc_x (s : State) (r : RegIdx) : s.cfg.xlen.trunc (s.x r) = asWord s (u s r) := by
  rw [asWord_eq, BitVec.ofInt_natCast, BitVec.toNat_eq, Xlen.trunc_toNat, Xlen.trunc_toNat, BitVec.toNat_ofNat,
    Nat.mod_eq_of_lt (u_lt s r), u, modulus, Nat.mod_mod]

/-! ### Forms -/

theorem lift_add (x : Xlen) (a b : Word) : x.lift Alu.add a b = x.trunc (a + b) := by
  cases x
  case rv32 => rw [Xlen.lift_rv32, Xlen.trunc, BitVec.setWidth_add a b (by decide), Alu.add]
  case rv64 => rfl

/-- The sum of a register and an immediate, modulo 2^XLEN. -/
theorem writeBack_addImmediate {off : Word} {o : Int} (h : s.cfg.xlen.trunc off = asWord s o) (rd r : RegIdx) (len : Nat) :
    writeBack rd (s.cfg.xlen.lift Alu.add (s.x r) off) len s = .next (retired s rd (u s r + o) len) := by
  apply writeBack_retired
  rw [Xlen.trunc_lift, lift_add, trunc_add_asWord h]
  exact asWord_congr (Int.emod_add_emod _ _ _).symm

theorem writeBack_shift (h : ComputesInt s.cfg.xlen.bits f op) (rd r : RegIdx) (shamt : BitVec 6) (len : Nat) :
    writeBack rd (s.cfg.xlen.lift f (s.x r) (zext shamt)) len s = .next (retired s rd (op (u s r) shamt.toNat) len) := by
  rw [writeBack_lift h, modulus, zext_toNat_mod (Nat.le_trans (by decide) s.cfg.xlen.le_bits) s.cfg.xlen.bits_le]
  rfl

/-- The target of C.JR and C.JALR: their register's value with bit 0 cleared (R778, R781). -/
theorem trunc_registerTarget_zero (s : State) (r : RegIdx) :
    s.cfg.xlen.trunc (registerTarget r 0 s) = asWord s (2 * ((u s r : Int) / 2)) := by
  rw [trunc_registerTarget (trunc_asWord_of_toNat s (n := 0) rfl)]
  simp

theorem cond_eq_zero (s : State) (r : RegIdx) : Cond.eq s.cfg.xlen (s.x r) 0 = decide (u s r = 0) := by
  have h0 : (0 : Word).toNat % modulus s = 0 := Nat.zero_mod _
  rw [Cond.eq_iff, ← modulus, h0]
  rfl

end Sys2Proof.Machine

namespace Sys2Proof.Proofs

open Sys2Proof.Machine Sys2Proof.Spec

/-- Settles O21: each instruction's expansion, once its operands have passed the check for reserved encodings. -/
theorem compressedRegisterResults : Obligations.CompressedRegisterResults := by
  intro s rd rs2 c d imm shamt nzuimm
  refine ⟨fun h => ?cAddi4spn, fun h => ?cAddi, ?cLi, fun h => ?cAddi16sp, fun hrd h => ?cLui, fun h => ?shifts, ?cAndi, ?cSub,
    ?cXor, ?cOr, ?cAnd, fun h => ?cMv, fun h => ?cAdd⟩
  case cAddi4spn =>
    rw [exec_cAddi4spn, whenLegal_of_wf (i := .cAddi4spn c nzuimm) (bne_iff_ne.mpr h)]
    exact writeBack_addImmediate (trunc_uimm4_asWord s (by decide) nzuimm) _ _ 2
  case cAddi =>
    rw [exec_cAddi, whenLegal_of_wf (i := .cAddi rd imm) (bne_iff_ne.mpr h)]
    exact writeBack_addImmediate (trunc_sext_asWord s imm) rd rd 2
  case cLi => exact (exec_cLi rd imm s).trans (writeBack_retired (trunc_sext_asWord s imm) rd 2)
  case cAddi16sp =>
    rw [exec_cAddi16sp, whenLegal_of_wf (i := .cAddi16sp imm) (bne_iff_ne.mpr h)]
    exact writeBack_addImmediate (trunc_imm16sp s imm) _ _ 2
  case cLui =>
    have hrow : (Instr.cLui rd imm).rowOk s.cfg.xlen = true := Bool.and_eq_true_iff.mpr ⟨bne_iff_ne.mpr hrd, bne_iff_ne.mpr h⟩
    rw [exec_cLui, whenLegal_of_wf (i := .cLui rd imm) hrow]
    exact writeBack_retired (trunc_immCLui s imm) rd 2
  case shifts =>
    have hok := shamtOk_of_lt h
    have hmod := Nat.mod_eq_of_lt h
    refine ⟨?cSrli, ?cSrai, ?cSlli⟩
    case cSrli => rw [exec_cSrli, whenLegal_of_wf (i := .cSrli c shamt) hok, writeBack_shift (computesInt_srl _), hmod]
    case cSrai =>
      rw [exec_cSrai, whenLegal_of_wf (i := .cSrai c shamt) hok, writeBack_shift (computesInt_sra _), hmod]
      rfl
    case cSlli => rw [exec_cSlli, whenLegal_of_wf (i := .cSlli rd shamt) hok, writeBack_shift (computesInt_sll _), hmod]
  case cAndi =>
    rw [exec_cAndi, writeBack_lift (computesInt_and _), sext_toNat_mod]
    rfl
  case cSub => exact (exec_cSub c d s).trans (writeBack_lift (computesInt_sub _) _ _ _ 2)
  case cXor => exact (exec_cXor c d s).trans (writeBack_lift (computesInt_xor _) _ _ _ 2)
  case cOr => exact (exec_cOr c d s).trans (writeBack_lift (computesInt_or _) _ _ _ 2)
  case cAnd => exact (exec_cAnd c d s).trans (writeBack_lift (computesInt_and _) _ _ _ 2)
  case cMv =>
    rw [exec_cMv, whenLegal_of_wf (i := .cMv rd rs2) (bne_iff_ne.mpr h)]
    exact writeBack_retired (trunc_x s rs2) rd 2
  case cAdd =>
    rw [exec_cAdd, whenLegal_of_wf (i := .cAdd rd rs2) (bne_iff_ne.mpr h)]
    exact writeBack_lift (computesInt_add _) rd _ _ 2

/-- Settles O22: each instruction is a jump with its target or a branch on its condition, of length 2. -/
theorem compressedControlResults : Obligations.CompressedControlResults := by
  intro s rs1 c offset off8
  refine ⟨fun hx => ?cJal, ?cJ, ?cBeqz, ?cBnez, fun h => ?cJr, fun h => ?cJalr⟩
  case cJal =>
    rw [exec_cJal, whenLegal_of_wf (i := .cJal offset) (by rw [hx]; rfl)]
    exact jumpLink_linked (trunc_pc_add_offsetOf s (by decide) offset) _ 2
  case cJ =>
    rw [exec_cJ, setPc_goesTo (trunc_pc_add_offsetOf s (by decide) offset)]
  case cBeqz => exact (exec_cBeqz c off8 s).trans (branchIf_goesTo (by rw [cond_eq_zero, decide_eq_true_iff]) s (by decide) off8 2)
  case cBnez => exact (exec_cBnez c off8 s).trans (branchIf_goesTo (by rw [cond_eq_zero]; simp) s (by decide) off8 2)
  case cJr =>
    rw [exec_cJr, whenLegal_of_wf (i := .cJr rs1) (bne_iff_ne.mpr h), setPc_goesTo (trunc_registerTarget_zero s rs1)]
  case cJalr =>
    rw [exec_cJalr, whenLegal_of_wf (i := .cJalr rs1) (bne_iff_ne.mpr h)]
    exact jumpLink_linked (trunc_registerTarget_zero s rs1) _ 2

end Sys2Proof.Proofs
end
